-- ==== Sys2Proof/Word.lean ====
section
/-! DEFINITION. The widths of spec/00_scope.md rule R11: a byte (pixel or chunk value), a run length, a 64-bit word. -/

namespace Sys2Proof

/-- A pixel, a chunk's value, the `B` field of a command: 8 bits. -/
abbrev Byte := BitVec 8

/-- A chunk's run length, the `W` field of a command, `RUN_LEN` and `DEC_OFFSET`: 32 bits. -/
abbrev RunLength := BitVec 32

/-- A command word, response data, a 64-bit register. -/
abbrev Word := BitVec 64

end Sys2Proof
end

