-- ==== Sys2Proof/Syntax.lean ====
section
/-! DEFINITION. The commands of spec/30_encoding.md rule R73, one constructor for each row of the opcode
table, and the names of the registers of spec/10_state.md rule R43. -/

namespace Sys2Proof

/-- The mode of an encode pass (rule R72): `M = 0` clear, `M = 1` append. -/
inductive EncMode where
  | clear
  | append
deriving DecidableEq, Repr

/-- The commands. `v` is the `B` field, `n` and `i` the `W` field, `r` a register number in `B` (rule R72). -/
inductive Instr where
  | nop
  | encBegin (m : EncMode)
  | encPixel (v : Byte)
  | encEnd
  | decBegin
  | decPixel
  | chunkLoad (v : Byte) (n : RunLength)
  | chunkRead (i : RunLength)
  | chunkClear
  | regRead (r : Byte)
  | softReset
deriving DecidableEq, Repr

/-- The registers `REG_READ` reads, in the order of their numbers 0 to 13 (rule R43). -/
inductive Reg where
  | id
  | status
  | errCause
  | errCmd
  | chunkCount
  | chunkCap
  | passBase
  | pixIn
  | runValue
  | runLen
  | decTotal
  | decEmitted
  | decChunk
  | decOffset
deriving DecidableEq, Repr

end Sys2Proof
end

