-- ==== Sys2Proof/WellFormed.lean ====
section
/-! DEFINITION. Which terms of `Instr` are commands of the block: the one operand whose field is wider than
its range is the register number (spec/30_encoding.md rule R72: "0 to 13 are legal"). -/

namespace Sys2Proof

/-- A command the opcode table holds. Every mode, pixel, chunk value, run length (0 too: it faults only when
run) and chunk index is encodable (rule R72). -/
def Instr.wf : Instr → Bool
  | .nop => true
  | .encBegin _ => true
  | .encPixel _ => true
  | .encEnd => true
  | .decBegin => true
  | .decPixel => true
  | .chunkLoad _ _ => true
  | .chunkRead _ => true
  | .chunkClear => true
  | .regRead r => decide (r.toNat ≤ 13)
  | .softReset => true

end Sys2Proof
end

