-- ==== Sys2Proof/Decode.lean ====
section
/-! DEFINITION. From a 64-bit command word to a command or a refusal by name, and back
(spec/30_encoding.md rules R70 to R75, R79, R80). Decoding is total: every word has an answer. -/

namespace Sys2Proof

/-! ### The fields of a command word (rule R70) -/

/-- `OP = cmd[7:0]`. -/
def opField (cmd : Word) : Byte := cmd.extractLsb' 0 8

/-- `B = cmd[15:8]`. -/
def bField (cmd : Word) : Byte := cmd.extractLsb' 8 8

/-- `W = cmd[47:16]`. -/
def wField (cmd : Word) : RunLength := cmd.extractLsb' 16 32

/-- `RSV = cmd[63:48]`. -/
def rsvField (cmd : Word) : BitVec 16 := cmd.extractLsb' 48 16

/-- Why a word selects no row of the opcode table: the three classes of rule R75. Executing any of them
faults `ILLEGAL_CMD`; the block does not tell them apart (DESIGN CHOICE, log entry 12). -/
inductive DecodeReject where
  | unassignedOpcode
  | mustBeZeroSet
  | reservedRegister
deriving DecidableEq, Repr

/-- The command `i` when the must-be-zero bits of its row are zero (rule R74). -/
def whenZero (zero : Bool) (i : Instr) : Except DecodeReject Instr :=
  if zero then .ok i else .error .mustBeZeroSet

/-- `M = B[0]` (rule R72). -/
def modeOf (b : Byte) : EncMode := if b.getLsbD 0 then .append else .clear

/-- The mode as the byte `B` that encodes it. -/
def modeByte : EncMode → Byte
  | .clear => 0
  | .append => 1

/-- Decoding by fields: the opcode chooses the row (rule R73), then the row's must-be-zero bits are checked
(rule R74), then `REG_READ`'s register number (rule R73: "the word must also have `B <= 13`"). -/
def decodeFields (op b : Byte) (w : RunLength) (rsv : BitVec 16) : Except DecodeReject Instr :=
  if op = 0x00 then whenZero (b == 0 && w == 0 && rsv == 0) .nop
  else if op = 0x01 then whenZero (b.extractLsb' 1 7 == 0 && w == 0 && rsv == 0) (.encBegin (modeOf b))
  else if op = 0x02 then whenZero (w == 0 && rsv == 0) (.encPixel b)
  else if op = 0x03 then whenZero (b == 0 && w == 0 && rsv == 0) .encEnd
  else if op = 0x10 then whenZero (b == 0 && w == 0 && rsv == 0) .decBegin
  else if op = 0x11 then whenZero (b == 0 && w == 0 && rsv == 0) .decPixel
  else if op = 0x20 then whenZero (rsv == 0) (.chunkLoad b w)
  else if op = 0x21 then whenZero (b == 0 && rsv == 0) (.chunkRead w)
  else if op = 0x22 then whenZero (b == 0 && w == 0 && rsv == 0) .chunkClear
  else if op = 0x30 then
    if w == 0 && rsv == 0 then
      if b.toNat ≤ 13 then .ok (.regRead b) else .error .reservedRegister
    else .error .mustBeZeroSet
  else if op = 0x3F then whenZero (b == 0 && w == 0 && rsv == 0) .softReset
  else .error .unassignedOpcode

/-- `decode(cmd)` of rule R79. -/
def decode (cmd : Word) : Except DecodeReject Instr :=
  decodeFields (opField cmd) (bField cmd) (wField cmd) (rsvField cmd)

/-! ### The encoder (rules R73, R80) -/

/-- `zext_64({W, B, OP})` (rule R80): the reserved bits are 0. -/
def commandWord (op b : Byte) (w : RunLength) : Word := (w ++ b ++ op).setWidth 64

/-- The opcode of a command (rule R73). -/
def opcodeByte : Instr → Byte
  | .nop => 0x00
  | .encBegin _ => 0x01
  | .encPixel _ => 0x02
  | .encEnd => 0x03
  | .decBegin => 0x10
  | .decPixel => 0x11
  | .chunkLoad _ _ => 0x20
  | .chunkRead _ => 0x21
  | .chunkClear => 0x22
  | .regRead _ => 0x30
  | .softReset => 0x3F

/-- The byte operand `B` of a command, 0 where its row does not use it (rules R72, R74). -/
def byteOperand : Instr → Byte
  | .nop => 0
  | .encBegin m => modeByte m
  | .encPixel v => v
  | .encEnd => 0
  | .decBegin => 0
  | .decPixel => 0
  | .chunkLoad v _ => v
  | .chunkRead _ => 0
  | .chunkClear => 0
  | .regRead r => r
  | .softReset => 0

/-- The word operand `W` of a command, 0 where its row does not use it (rules R72, R74). -/
def wordOperand : Instr → RunLength
  | .nop => 0
  | .encBegin _ => 0
  | .encPixel _ => 0
  | .encEnd => 0
  | .decBegin => 0
  | .decPixel => 0
  | .chunkLoad _ n => n
  | .chunkRead i => i
  | .chunkClear => 0
  | .regRead _ => 0
  | .softReset => 0

/-- The word of a command. -/
def encode (i : Instr) : Word := commandWord (opcodeByte i) (byteOperand i) (wordOperand i)

/-! ### The opcode table as the spec prints it (rules R73, R79) -/

/-- A row of rule R73: a word selects it when `(cmd & mask) == match`; `build` makes the command of `B`
and `W`. -/
structure OpcodeRow where
  mnemonic : String
  mask : Word
  pattern : Word
  build : Byte → RunLength → Instr

/-- The eleven rows of rule R73. -/
def opcodeTable : List OpcodeRow :=
  [ ⟨"NOP", 0xFFFFFFFFFFFFFFFF, 0x0000000000000000, fun _ _ => .nop⟩,
    ⟨"ENC_BEGIN", 0xFFFFFFFFFFFFFEFF, 0x0000000000000001, fun b _ => .encBegin (modeOf b)⟩,
    ⟨"ENC_PIXEL", 0xFFFFFFFFFFFF00FF, 0x0000000000000002, fun b _ => .encPixel b⟩,
    ⟨"ENC_END", 0xFFFFFFFFFFFFFFFF, 0x0000000000000003, fun _ _ => .encEnd⟩,
    ⟨"DEC_BEGIN", 0xFFFFFFFFFFFFFFFF, 0x0000000000000010, fun _ _ => .decBegin⟩,
    ⟨"DEC_PIXEL", 0xFFFFFFFFFFFFFFFF, 0x0000000000000011, fun _ _ => .decPixel⟩,
    ⟨"CHUNK_LOAD", 0xFFFF0000000000FF, 0x0000000000000020, fun b w => .chunkLoad b w⟩,
    ⟨"CHUNK_READ", 0xFFFF00000000FFFF, 0x0000000000000021, fun _ w => .chunkRead w⟩,
    ⟨"CHUNK_CLEAR", 0xFFFFFFFFFFFFFFFF, 0x0000000000000022, fun _ _ => .chunkClear⟩,
    ⟨"REG_READ", 0xFFFFFFFFFFFF00FF, 0x0000000000000030, fun b _ => .regRead b⟩,
    ⟨"SOFT_RESET", 0xFFFFFFFFFFFFFFFF, 0x000000000000003F, fun _ _ => .softReset⟩ ]

/-- `(cmd & mask) == match` (rule R73). -/
def OpcodeRow.selectedBy (row : OpcodeRow) (cmd : Word) : Bool := cmd &&& row.mask == row.pattern

/-- Rule R79's loop over the rows, as the spec prints it: the first row the word selects, refused when it is a
`REG_READ` with `B > 13` (the one row whose commands need not be well formed). -/
def decodeByTable (cmd : Word) : Option Instr :=
  match opcodeTable.find? (fun row => row.selectedBy cmd) with
  | some row =>
    let i := row.build (bField cmd) (wField cmd)
    if i.wf then some i else none
  | none => none

/-! ### Words as the opcode table numbers their bits -/

/-- The command word whose bits are the low `nbits` bits of `w`, every bit above them 0. A command is one whole
64-bit word and has no byte order at the block's ports (rules R60, R71), so bit `k` of the table is bit `k`
of the word. -/
def portWord (nbits w : Nat) : Word := BitVec.ofNat 64 (w % 2 ^ nbits)

/-- The command the decoder reads from those bits; none where it refuses them. -/
def decodeTableWord (nbits w : Nat) : Option Instr :=
  match decode (portWord nbits w) with
  | .ok i => some i
  | .error _ => none

end Sys2Proof
end

