-- ==== Sys2Proof/Config.lean ====
section
/-! DEFINITION. What an implementation fixes and the spec leaves open: the capacity of the chunk store
(spec/00_scope.md rule R10), and the one value that is free (spec/70_reset_and_hazards.md rule R193). -/

namespace Sys2Proof.Config

/-- The entries of the chunk store beyond the first: an uninterpreted constant below `2^32`. -/
opaque spareEntries : Fin (2 ^ 32)

/-- `CHUNK_CAP`, the build parameter: some number from 1 to `2^32` (rule R10), no number in particular. -/
def chunkCap : Nat := spareEntries.val + 1

/-- Whether the response of a command in flight at a hardware reset reaches the host, for the `k`-th such
reset (rule R193: not known). A free value: no body, nothing constrains it (DESIGN CHOICE, log
entry 8). -/
opaque responseArrives (k : Nat) : Bool

end Sys2Proof.Config
end

