-- ==== Sys2Proof/Machine/State.lean ====
section
/-! DEFINITION. The state of the block (spec/10_state.md rule R20), of its two ports, and the reset state
(spec/70_reset_and_hazards.md rule R190). Plain data throughout. -/

namespace Sys2Proof.Machine

/-- The fault causes, codes 1 to 7 (spec/60_exceptions.md rule R160). A fault of the block is a NEXT state of
the model: its response carries the cause and the error state is entered (rule R161). -/
inductive Cause where
  | illegalCmd
  | sequence
  | busy
  | runOverflow
  | storeFull
  | zeroRun
  | indexRange
deriving DecidableEq, Repr

/-- The response codes (rule R160): success, a fault cause, or `BLOCKED` from the error-state filter. -/
inductive Code where
  | ok
  | fault (c : Cause)
  | blocked
deriving DecidableEq, Repr

/-- The document's error kinds, onto which rule R160 maps each cause for a host that reports them. -/
inductive ErrorKind where
  | format
  | contract
  | resource
deriving DecidableEq, Repr

/-- One entry of the chunk store: `value` 8 bits, `run` 32 bits (spec/10_state.md rule R30). -/
structure Chunk where
  value : Byte
  run : RunLength
deriving DecidableEq, Repr

/-- The chunk store: the entries below `CHUNK_COUNT`, entry 0 first. Rule R54 of spec/20_memory.md asks for this
list alone; an entry at or beyond the count has no value (DESIGN CHOICE, log entry 5). Equal stores are equal lists. -/
abbrev Memory := List Chunk

/-- One response `(CODE, DATA)` (spec/30_encoding.md rule R77). -/
structure Response where
  code : Byte
  data : Word
deriving DecidableEq, Repr

/-- What the host can do at the block's ports (spec/70_reset_and_hazards.md rules R191, R193, R200). -/
inductive Input where
  /-- Issue a command word and wait for its response. -/
  | command (cmd : Word)
  /-- Assert the hardware reset input between commands. -/
  | hardReset
  /-- Assert the hardware reset input while the block carries out a command. -/
  | resetDuring (cmd : Word)
deriving DecidableEq, Repr

/-- The block's registers and store under the manual's names, then its ports, then the model's own counter.
`CHUNK_COUNT` is the length of `store`, `STATUS` is composed of the six flags, and `ID` is a constant, so none of
the three is stored (spec/10_state.md rules R31, R40, R42). -/
structure State where
  /-- STATUS bit 0 (rule R23). -/
  encActive : Bool
  /-- STATUS bit 1 (rule R25). -/
  runOpen : Bool
  /-- STATUS bit 2 (rule R24). -/
  append : Bool
  /-- STATUS bit 3 (rule R32). -/
  decActive : Bool
  /-- STATUS bit 4 (rule R33). -/
  decDone : Bool
  /-- STATUS bit 5 (rule R37). -/
  err : Bool
  /-- ERR_CAUSE (rule R38). -/
  errCause : Byte
  /-- ERR_CMD (rule R39). -/
  errCmd : Word
  /-- CHUNK_CAP, a constant of the block (rule R41; DESIGN CHOICE, log entry 4). -/
  chunkCap : Nat
  /-- STORE below CHUNK_COUNT (rules R30, R31). -/
  store : Memory
  /-- PASS_BASE (rule R28). -/
  passBase : Word
  /-- PIX_IN (rule R29). -/
  pixIn : Word
  /-- RUN_VALUE (rule R26). -/
  runValue : Byte
  /-- RUN_LEN (rule R27). -/
  runLen : RunLength
  /-- DEC_TOTAL (rule R34). -/
  decTotal : Word
  /-- DEC_EMITTED (rule R34). -/
  decEmitted : Word
  /-- DEC_CHUNK (rule R35). -/
  decChunk : Word
  /-- DEC_OFFSET (rule R36). -/
  decOffset : RunLength
  /-- What the host will still drive, in the order it will (DESIGN CHOICE, log entry 1). -/
  inputs : List Input
  /-- The responses the host has received, oldest first (spec/00_scope.md rule R9; DESIGN CHOICE, log entry 1). -/
  responses : List Response
  /-- The model's own: how many free values have been drawn (DESIGN CHOICE, log entry 8). -/
  freeCount : Nat
deriving DecidableEq, Repr

/-- The reset state of a block built with `cap` entries, its ports quiet: every register at its value of
spec/70_reset_and_hazards.md rule R190. -/
def State.resetWith (cap : Nat) : State where
  encActive := false
  runOpen := false
  append := false
  decActive := false
  decDone := false
  err := false
  errCause := 0
  errCmd := 0
  chunkCap := cap
  store := []
  passBase := 0
  pixIn := 0
  runValue := 0
  runLen := 0
  decTotal := 0
  decEmitted := 0
  decChunk := 0
  decOffset := 0
  inputs := []
  responses := []
  freeCount := 0

/-- The machine right after reset. Its capacity is the open build parameter (DESIGN CHOICE, log entry 4).
There is no state before the first reset (DEDUCED, log entry 15). -/
def State.reset : State := State.resetWith Config.chunkCap

/-- Where the model stops. None of these is a fault of the spec: those are next states. -/
inductive Fault where
  /-- Raised by DEC_PIXEL when a decode is open and DEC_CHUNK is at or beyond CHUNK_COUNT: the entry has no value
  (spec/20_memory.md rule R54; DESIGN CHOICE, log entry 6). No reachable state has such a cursor (spec/10_state.md rule R45, INV7). Safe: the
  model stops and gives no pixel. -/
  | entryBeyondCount
deriving DecidableEq, Repr

/-- Instructions without a meaning. -/
inductive Refusal where
  /-- Raised by an arm of `exec` whose instruction has no meaning yet. No arm raises it. Safe. -/
  | notModelled (mnemonic : String)
deriving DecidableEq, Repr

end Sys2Proof.Machine
end

