-- ==== Sys2Proof/Machine/Flags.lean ====
section
/-! DEFINITION. The flags and codes: STATUS as it reads (spec/10_state.md rule R42), the boundary detector
(spec/40_encoder.md rule R101), and the numbers of the response codes (spec/60_exceptions.md rule R160). -/

namespace Sys2Proof.Machine

/-- `STATUS = {58'b0, ERR, DEC_DONE, DEC_ACTIVE, APPEND, RUN_OPEN, ENC_ACTIVE}` (rule R42). -/
def statusWord (s : State) : Word :=
  (BitVec.ofBool s.err ++ BitVec.ofBool s.decDone ++ BitVec.ofBool s.decActive ++
    BitVec.ofBool s.append ++ BitVec.ofBool s.runOpen ++ BitVec.ofBool s.encActive).setWidth 64

/-- The boundary detector (rule R101): there is a current run, and the incoming pixel differs from its value. -/
def boundary (v : Byte) (s : State) : Bool := s.runOpen && v != s.runValue

/-- The number of a fault cause (rule R160). -/
def Cause.value : Cause → Byte
  | .illegalCmd => 0x01
  | .sequence => 0x02
  | .busy => 0x03
  | .runOverflow => 0x04
  | .storeFull => 0x05
  | .zeroRun => 0x06
  | .indexRange => 0x07

/-- The number of a response code (rule R160). -/
def Code.value : Code → Byte
  | .ok => 0x00
  | .fault c => c.value
  | .blocked => 0x08

/-- The "document kind" column of rule R160. -/
def Cause.kind : Cause → ErrorKind
  | .illegalCmd => .contract
  | .sequence => .contract
  | .busy => .contract
  | .runOverflow => .resource
  | .storeFull => .resource
  | .zeroRun => .format
  | .indexRange => .contract

end Sys2Proof.Machine
end

