-- ==== Sys2Proof/Machine/Operands.lean ====
section
/-! DEFINITION. The operand and result forms: register numbers and names (spec/10_state.md rule R43), the ID
constant (rule R40), and the chunk word (spec/30_encoding.md rule R78). -/

namespace Sys2Proof.Machine

/-- The registers in the order of their numbers (rule R43). -/
def allRegs : List Reg :=
  [.id, .status, .errCause, .errCmd, .chunkCount, .chunkCap, .passBase, .pixIn, .runValue, .runLen,
    .decTotal, .decEmitted, .decChunk, .decOffset]

/-- The register a number names; none for the reserved numbers 14 to 255 (rule R43). -/
def regOfNumber (r : Byte) : Option Reg := allRegs[r.toNat]?

/-- The manual's name of a register (rules R20, R43). -/
def regName : Reg → String
  | .id => "ID"
  | .status => "STATUS"
  | .errCause => "ERR_CAUSE"
  | .errCmd => "ERR_CMD"
  | .chunkCount => "CHUNK_COUNT"
  | .chunkCap => "CHUNK_CAP"
  | .passBase => "PASS_BASE"
  | .pixIn => "PIX_IN"
  | .runValue => "RUN_VALUE"
  | .runLen => "RUN_LEN"
  | .decTotal => "DEC_TOTAL"
  | .decEmitted => "DEC_EMITTED"
  | .decChunk => "DEC_CHUNK"
  | .decOffset => "DEC_OFFSET"

/-- `ID`: command-set version 1 in bits 15:0, bits 63:16 zero (rule R40). -/
def idValue : Word := 0x0000000000000001

/-- `chunkword((v, n)) = zext_64({n[31:0], v[7:0]})` (spec/30_encoding.md rule R78). -/
def chunkWord (c : Chunk) : Word := (c.run ++ c.value).setWidth 64

end Sys2Proof.Machine
end

