-- ==== Sys2Proof/Machine/Ops.lean ====
section
/-! DEFINITION. The operations the meanings share: the chunk store, the registers as they read, the accumulator,
responses, taking a fault, the error-state filter, and reset. -/

namespace Sys2Proof.Machine

/-- What a command answers. -/
abbrev Result := Host.Outcome State Fault Refusal

/-! ### The chunk store (spec/20_memory.md rules R50 to R54) -/

/-- The store's form: no more entries than the capacity, and no zero-length chunk (spec/10_state.md rule R45,
INV3 and INV4). -/
def Memory.wf (cap : Nat) (m : Memory) : Bool := decide (m.length ≤ cap) && m.all (fun c => c.run != 0)

/-- `STORE[i]`, for an index below the count; none where the entry has no value (rule R54). -/
def Memory.readEntry (m : Memory) (i : Nat) : Option Chunk := m[i]?

/-- `STORE[CHUNK_COUNT] <- c; CHUNK_COUNT <- CHUNK_COUNT + 1`, the only write (rule R52). -/
def Memory.appendEntry (m : Memory) (c : Chunk) : Memory := m ++ [c]

/-- `sum(STORE[i].run for 0 <= i < CHUNK_COUNT)`, a natural number. -/
def Memory.pixels (m : Memory) : Nat := (m.map (fun c => c.run.toNat)).sum

/-- `CHUNK_COUNT` (spec/10_state.md rule R31). -/
def State.chunkCount (s : State) : Nat := s.store.length

/-- `EmitChunk(val, len)` (spec/40_encoder.md rule R102), and the write of `CHUNK_LOAD`; its callers have checked
that there is room. -/
def State.emitChunk (s : State) (value : Byte) (run : RunLength) : State :=
  { s with store := Memory.appendEntry s.store ⟨value, run⟩ }

/-- `CHUNK_COUNT <- 0` (rule R50): no entry is written, all become unreadable. -/
def State.clearStore (s : State) : State := { s with store := [] }

/-! ### The registers as `REG_READ` reads them (spec/10_state.md rule R43) -/

/-- A register's value, zero-extended to 64 bits (rules R20, R43). -/
def State.readReg (s : State) : Reg → Word
  | .id => idValue
  | .status => statusWord s
  | .errCause => s.errCause.setWidth 64
  | .errCmd => s.errCmd
  | .chunkCount => BitVec.ofNat 64 s.chunkCount
  | .chunkCap => BitVec.ofNat 64 s.chunkCap
  | .passBase => s.passBase
  | .pixIn => s.pixIn
  | .runValue => s.runValue.setWidth 64
  | .runLen => s.runLen.setWidth 64
  | .decTotal => s.decTotal
  | .decEmitted => s.decEmitted
  | .decChunk => s.decChunk
  | .decOffset => s.decOffset.setWidth 64

/-! ### The accumulator (spec/40_encoder.md rule R100) -/

/-- `RUN_OPEN <- 0; RUN_VALUE <- 0; RUN_LEN <- 0`. -/
def State.closeRun (s : State) : State := { s with runOpen := false, runValue := 0, runLen := 0 }

/-- `RUN_OPEN <- 1; RUN_VALUE <- v; RUN_LEN <- 1`, and the pixel is counted in `PIX_IN`. No counter wraps in a reachable
state (rule R29; DESIGN CHOICE for the others, log entry 7). -/
def State.startRun (s : State) (v : Byte) : State :=
  { s with runOpen := true, runValue := v, runLen := 1, pixIn := s.pixIn + 1 }

/-- `RUN_LEN <- RUN_LEN + 1`, and the pixel is counted in `PIX_IN`. -/
def State.extendRun (s : State) : State := { s with runLen := s.runLen + 1, pixIn := s.pixIn + 1 }

/-! ### Responses (spec/30_encoding.md rule R77) -/

/-- The host receives `(CODE, DATA)`. -/
def State.receive (s : State) (code : Code) (data : Word) : State :=
  { s with responses := s.responses ++ [⟨code.value, data⟩] }

/-- `respond(d)` of spec/00_scope.md rule R15: the command ends with `OK` and data `d`. -/
def respond (data : Word) (s : State) : Result := .next (s.receive .ok data)

/-! ### Taking a fault, the error-state filter, and the return (spec/60_exceptions.md) -/

/-- Fault entry (rule R161): `ERR`, `ERR_CAUSE` and `ERR_CMD` are written, the response is `(cause, 0)`, and nothing
else changes. -/
def State.enterFault (s : State) (c : Cause) (cmd : Word) : State :=
  { s with err := true, errCause := c.value, errCmd := cmd }.receive (.fault c) 0

/-- `raise Fault(C)` of spec/00_scope.md rule R15. `cmd` is the whole faulting word: a meaning gives the encoding of its
command (DEDUCED, log entry 10). -/
def raise (c : Cause) (cmd : Word) (s : State) : Result := .next (s.enterFault c cmd)

/-- The error-state filter (rule R162), in front of each meaning it applies to (DEDUCED, log entry 11): with `ERR = 1` the response is
`(BLOCKED, 0)` and no state changes. -/
def filtered (s : State) (run : Result) : Result := if s.err then .next (s.receive .blocked 0) else run

/-- The reset operation on the block's registers (spec/70_reset_and_hazards.md rule R190), the only way out of the
error state (rule R163). The constants `ID` and `CHUNK_CAP` are not written, and what the host has received and
will drive is the host's. -/
def State.applyReset (s : State) : State :=
  { State.resetWith s.chunkCap with
    inputs := s.inputs
    responses := s.responses
    freeCount := s.freeCount }

end Sys2Proof.Machine
end

