-- ==== Sys2Proof/Machine/Control.lean ====
section
/-! DEFINITION. The control family: REG_READ, NOP, SOFT_RESET (spec/42_store_and_control.md rules R143 to R145), the
three commands the error-state filter lets through (spec/60_exceptions.md rule R162). -/

namespace Sys2Proof.Machine

/-- `REG_READ r` (rule R143). Well-formed, it is legal in every state. A number of 14 or more is no command: decode
has refused it, and here too it faults `ILLEGAL_CMD`, or is `BLOCKED` in the error state. -/
def execRegRead (r : Byte) (s : State) : Result :=
  match regOfNumber r with
  | some reg => respond (s.readReg reg) s
  | none => filtered s (raise .illegalCmd (encode (.regRead r)) s)

/-- `NOP` (rule R144). -/
def execNop (s : State) : Result := respond 0 s

/-- `SOFT_RESET` (rule R145). -/
def execSoftReset (s : State) : Result := respond 0 s.applyReset

end Sys2Proof.Machine
end

