-- ==== Sys2Proof/Machine/Decoder.lean ====
section
/-! DEFINITION. The decoder family: DEC_BEGIN, DEC_PIXEL (spec/41_decoder.md rules R121, R122). -/

namespace Sys2Proof.Machine

/-- `DEC_BEGIN` (rule R121): total the runs, put the cursor at the start; an empty total is a decode already done. -/
def execDecBegin (s : State) : Result :=
  filtered s <|
    if s.encActive then raise .busy (encode .decBegin) s
    else if s.decActive then raise .sequence (encode .decBegin) s
    else
      let total := BitVec.ofNat 64 (Memory.pixels s.store)
      respond total
        { s with
          decTotal := total
          decEmitted := 0
          decChunk := 0
          decOffset := 0
          decActive := decide (total ≠ 0)
          decDone := decide (total = 0) }

/-- The cursor after one pixel of a chunk of length `len` (rule R122): the next slot of the chunk, or the first slot
of the next chunk; the last pixel of all ends the decode. -/
def State.advanceCursor (s : State) (len : RunLength) : State :=
  let lastSlot := s.decOffset.toNat + 1 = len.toNat
  let emitted := s.decEmitted + 1
  { s with
    decEmitted := emitted
    decChunk := if lastSlot then s.decChunk + 1 else s.decChunk
    decOffset := if lastSlot then 0 else s.decOffset + 1
    decActive := if emitted = s.decTotal then false else s.decActive
    decDone := if emitted = s.decTotal then true else s.decDone }

/-- `DEC_PIXEL` (rule R122): the next pixel. A cursor that names no entry, which no reachable state has, stops the model
(DESIGN CHOICE, log entry 6). -/
def execDecPixel (s : State) : Result :=
  filtered s <|
    if s.decActive = false then raise .sequence (encode .decPixel) s
    else
      match Memory.readEntry s.store s.decChunk.toNat with
      | none => .fault .entryBeyondCount
      | some c => respond (c.value.setWidth 64) (s.advanceCursor c.run)

end Sys2Proof.Machine
end

