-- ==== Sys2Proof/Machine/Encoder.lean ====
section
/-! DEFINITION. The encoder family: ENC_BEGIN, ENC_PIXEL, ENC_END (spec/40_encoder.md rules R103 to R105). -/

namespace Sys2Proof.Machine

/-- `ENC_BEGIN` (rule R103): begin a pass, clearing the store or appending to it. -/
def execEncBegin (m : EncMode) (s : State) : Result :=
  filtered s <|
    if s.decActive then raise .busy (encode (.encBegin m)) s
    else if s.encActive then raise .sequence (encode (.encBegin m)) s
    else
      let s₁ := match m with
        | .clear => s.clearStore
        | .append => s
      let base := BitVec.ofNat 64 s₁.chunkCount
      respond base
        { s₁.closeRun with
          passBase := base
          append := decide (m = .append)
          encActive := true
          pixIn := 0 }

/-- `ENC_PIXEL v` (rule R104): start a run, extend it, or at a boundary write the closed chunk and start a new run. -/
def execEncPixel (v : Byte) (s : State) : Result :=
  filtered s <|
    if s.encActive = false then raise .sequence (encode (.encPixel v)) s
    else if s.runOpen = false then respond 0 (s.startRun v)
    else if boundary v s = false then
      if s.runLen = 0xFFFFFFFF then raise .runOverflow (encode (.encPixel v)) s
      else respond 0 s.extendRun
    else if s.chunkCount = s.chunkCap then raise .storeFull (encode (.encPixel v)) s
    else respond 1 ((s.emitChunk s.runValue s.runLen).startRun v)

/-- `ENC_END` (rule R105): flush the final run and close the pass. -/
def execEncEnd (s : State) : Result :=
  filtered s <|
    if s.encActive = false then raise .sequence (encode .encEnd) s
    else if s.runOpen ∧ s.chunkCount = s.chunkCap then raise .storeFull (encode .encEnd) s
    else
      let s₁ := if s.runOpen then s.emitChunk s.runValue s.runLen else s
      respond (BitVec.ofNat 64 s₁.chunkCount - s.passBase) { s₁.closeRun with encActive := false }

end Sys2Proof.Machine
end

