-- ==== Sys2Proof/Machine/Store.lean ====
section
/-! DEFINITION. The chunk-store family: CHUNK_LOAD, CHUNK_READ, CHUNK_CLEAR (spec/42_store_and_control.md rules R140
to R142). -/

namespace Sys2Proof.Machine

/-- `CHUNK_LOAD v, n` (rule R140): append one chunk. -/
def execChunkLoad (v : Byte) (n : RunLength) (s : State) : Result :=
  filtered s <|
    if s.encActive || s.decActive then raise .busy (encode (.chunkLoad v n)) s
    else if n = 0 then raise .zeroRun (encode (.chunkLoad v n)) s
    else if s.chunkCount = s.chunkCap then raise .storeFull (encode (.chunkLoad v n)) s
    else
      let s₁ := s.emitChunk v n
      respond (BitVec.ofNat 64 s₁.chunkCount) s₁

/-- `CHUNK_READ i` (rule R141): read one chunk; an index at or beyond the count is out of range. -/
def execChunkRead (i : RunLength) (s : State) : Result :=
  filtered s <|
    match Memory.readEntry s.store i.toNat with
    | none => raise .indexRange (encode (.chunkRead i)) s
    | some c => respond (chunkWord c) s

/-- `CHUNK_CLEAR` (rule R142): empty the store. -/
def execChunkClear (s : State) : Result :=
  filtered s <|
    if s.encActive || s.decActive then raise .busy (encode .chunkClear) s
    else respond 0 s.clearStore

end Sys2Proof.Machine
end

