-- ==== Sys2Proof/Machine/Dispatch.lean ====
section
/-! DEFINITION. One arm for each command (spec/30_encoding.md rule R73). -/

namespace Sys2Proof.Machine

/-- What a decoded command does to the state: the error-state filter, the command's checks in the order of
spec/60_exceptions.md rule R165, then its effect. -/
def exec (i : Instr) (s : State) : Host.Outcome State Fault Refusal :=
  match i with
  | .nop => Sys2Proof.Machine.execNop s
  | .encBegin m => Sys2Proof.Machine.execEncBegin m s
  | .encPixel v => Sys2Proof.Machine.execEncPixel v s
  | .encEnd => Sys2Proof.Machine.execEncEnd s
  | .decBegin => Sys2Proof.Machine.execDecBegin s
  | .decPixel => Sys2Proof.Machine.execDecPixel s
  | .chunkLoad v n => Sys2Proof.Machine.execChunkLoad v n s
  | .chunkRead j => Sys2Proof.Machine.execChunkRead j s
  | .chunkClear => Sys2Proof.Machine.execChunkClear s
  | .regRead r => Sys2Proof.Machine.execRegRead r s
  | .softReset => Sys2Proof.Machine.execSoftReset s

end Sys2Proof.Machine
end

