-- ==== Sys2Proof/Machine/Port.lean ====
section
/-! DEFINITION. What the block does with each input at its ports: a command word (spec/30_encoding.md rule R79), the
hardware reset input (spec/70_reset_and_hazards.md rule R191), the two together (rule R193), and none. -/

namespace Sys2Proof.Machine

/-- Carry out one command word: decode it, fault `ILLEGAL_CMD` if it is illegal (`BLOCKED` in the error state), else
run its rule (rules R79, R162). -/
def carryOut (cmd : Word) (s : State) : Result :=
  match decode cmd with
  | .ok i => exec i s
  | .error _ => filtered s (raise .illegalCmd cmd s)

/-- What the host has received once the response of `cmd` has arrived. -/
def responsesAfter (cmd : Word) (s : State) : List Response :=
  match carryOut cmd s with
  | .next t => t.responses
  | .fault _ => s.responses
  | .refused _ => s.responses

/-- Reset asserted while `cmd` is carried out (rule R193): the block is reset whether or not the command took effect;
whether its response arrives is not known (a free value; DESIGN CHOICE, log entry 8). -/
def interruptedByReset (cmd : Word) (s : State) : State :=
  { s.applyReset with
    responses := if Config.responseArrives s.freeCount then responsesAfter cmd s else s.responses
    freeCount := s.freeCount + 1 }

/-- One input. The hardware reset input has no response (DEDUCED, log entry 9). -/
def takeInput (i : Input) (s : State) : Result :=
  match i with
  | .command cmd => carryOut cmd s
  | .hardReset => .next s.applyReset
  | .resetDuring cmd => .next (interruptedByReset cmd s)

/-- Between commands the block does nothing and keeps all its state (spec/00_scope.md rule R8,
spec/60_exceptions.md rule R174; DEDUCED, log entry 3). -/
def idle (s : State) : Result := .next s

end Sys2Proof.Machine
end

