-- ==== Sys2Proof/Machine/Step.lean ====
section
/-! DEFINITION. One step of the machine: the next input of the host is taken (spec/00_scope.md rule R7). The block
fetches nothing and has no program counter (spec/10_state.md rule R22), so the place the next command comes from is
the command port. -/

namespace Sys2Proof.Machine

/-- One step: the input at the head of `inputs` is taken and carried out whole (DEDUCED, log entry 16). -/
def step (s : State) : Host.Outcome State Fault Refusal :=
  match s.inputs with
  | [] => idle s
  | i :: rest => takeInput i { s with inputs := rest }

/-- `s` with the command word of these bits next on the command port (DEDUCED, log entry 2). -/
def State.withFetchWord (s : State) (nbits w : Nat) : State :=
  { s with inputs := .command (portWord nbits w) :: s.inputs }

end Sys2Proof.Machine
end

