-- ==== Sys2Proof/Machine/Reference.lean ====
section
/-! DEFINITION. The reference functions the spec calls the meaning of a pass and of a decode (spec/40_encoder.md rule
R106, spec/41_decoder.md rule R123), over unbounded run lengths, and the chunk table (spec/20_memory.md rule R56).
The machine does not call them: claims compare it with them. -/

namespace Sys2Proof.Machine

/-- A chunk `(value, run_length)` with its length a natural number. -/
abbrev Run := Byte × Nat

/-- The stored chunk as a run. -/
def Chunk.toRun (c : Chunk) : Run := (c.value, c.run.toNat)

/-- The chunk sequence the store holds (rule R51). -/
def Memory.runs (m : Memory) : List Run := m.map Chunk.toRun

/-- The loop of `encode` in rule R106 with a run open: `(cv, cl)` is the current run. -/
def encodeFrom (cv : Byte) (cl : Nat) : List Byte → List Run
  | [] => [(cv, cl)]
  | p :: rest => if p = cv then encodeFrom cv (cl + 1) rest else (cv, cl) :: encodeFrom p 1 rest

/-- `encode(P)` (rule R106). -/
def encodePixels : List Byte → List Run
  | [] => []
  | p :: rest => encodeFrom p 1 rest

/-- `decode(seq)` (rule R123): each chunk's value, its length times, in order. -/
def decodeRuns (seq : List Run) : List Byte := seq.flatMap (fun r => List.replicate r.2 r.1)

/-- `sum(n for (v, n) in seq)`. -/
def totalLength (seq : List Run) : Nat := (seq.map Prod.snd).sum

/-- The number of maximal runs of a pixel list: one, and one more at every boundary (rule R18). -/
def maximalRuns : List Byte → Nat
  | [] => 0
  | [_] => 1
  | p :: q :: rest => (if p = q then 0 else 1) + maximalRuns (q :: rest)

/-! ### The chunk table (rules R56 to R58) -/

/-- `le32(x)`: four bytes, least significant first. -/
def le32 (x : BitVec 32) : List Byte :=
  [x.extractLsb' 0 8, x.extractLsb' 8 8, x.extractLsb' 16 8, x.extractLsb' 24 8]

/-- `le64(x)`: eight bytes, least significant first. -/
def le64 (x : Word) : List Byte :=
  [x.extractLsb' 0 8, x.extractLsb' 8 8, x.extractLsb' 16 8, x.extractLsb' 24 8,
    x.extractLsb' 32 8, x.extractLsb' 40 8, x.extractLsb' 48 8, x.extractLsb' 56 8]

/-- `Rec((v, n)) = [v] ++ le32(n)`. -/
def chunkRecord (c : Chunk) : List Byte := c.value :: le32 c.run

/-- `ChunkTable(seq)`: the count, then the records, no padding and no checksum. -/
def chunkTable (seq : Memory) : List Byte :=
  le64 (BitVec.ofNat 64 seq.length) ++ seq.flatMap chunkRecord

/-- The low five bytes of a response's data, least significant first (rule R57). -/
def lowFiveBytes (d : Word) : List Byte :=
  [d.extractLsb' 0 8, d.extractLsb' 8 8, d.extractLsb' 16 8, d.extractLsb' 24 8, d.extractLsb' 32 8]

/-- `count` records of five bytes each, in order; none if the bytes run out (rule R58: a "truncated chunk table").
Bytes after the last record are not looked at (DESIGN CHOICE, log entry 13). -/
def readRecords : Nat → List Byte → Option Memory
  | 0, _ => some []
  | k + 1, v :: n₀ :: n₁ :: n₂ :: n₃ :: rest =>
    (readRecords k rest).map (fun seq => ⟨v, (n₃ ++ n₂ ++ n₁ ++ n₀).setWidth 32⟩ :: seq)
  | _ + 1, _ => none

/-- Reading a chunk table (rule R58): the count, least significant byte first, a check that all `8 + 5 * count` bytes
are there (spec/42_store_and_control.md rule R146), then the records. -/
def readTable : List Byte → Option Memory
  | c₀ :: c₁ :: c₂ :: c₃ :: c₄ :: c₅ :: c₆ :: c₇ :: rest =>
    let count : Word := (c₇ ++ c₆ ++ c₅ ++ c₄ ++ c₃ ++ c₂ ++ c₁ ++ c₀).setWidth 64
    if 5 * count.toNat ≤ rest.length then readRecords count.toNat rest else none
  | _ => none

end Sys2Proof.Machine
end

