-- ==== Sys2Proof/Machine/HostSide.lean ====
section
/-! DEFINITION. The host's notations: the pseudo-instructions (spec/30_encoding.md rule R81), the loading and dumping of
a chunk table (spec/42_store_and_control.md rule R146), and the assembler (rule R80). -/

namespace Sys2Proof.Machine

/-! ### Pseudo-instructions (rule R81) -/

/-- `ENC_RUN v, k`. -/
def encRun (v : Byte) (k : Nat) : List Instr := List.replicate k (.encPixel v)

/-- `ENCODE [p0, ...]` and `ENCODE.APPEND [p0, ...]`. -/
def encodeCommands (m : EncMode) (pixels : List Byte) : List Instr :=
  .encBegin m :: (pixels.map .encPixel ++ [.encEnd])

/-- `LOAD_SEQ [(v0, n0), ...]`. -/
def loadCommands (seq : Memory) : List Instr := .chunkClear :: seq.map (fun c => .chunkLoad c.value c.run)

/-- `DECODE`, once `DEC_BEGIN` has answered `total`: the host supplies the loop. -/
def decodeCommands (total : Nat) : List Instr := .decBegin :: List.replicate total .decPixel

/-- `READ_SEQ`, once `REG_READ CHUNK_COUNT` has answered `count`. -/
def readCommands (count : Nat) : List Instr :=
  .regRead 4 :: (List.range count).map (fun k => .chunkRead (BitVec.ofNat 32 k))

/-- The inputs by which the host issues these commands, in order. -/
def issue (commands : List Instr) : List Input := commands.map (fun i => .command (encode i))

/-- Loading a chunk table (rule R146): none when the host finds it truncated, before any command. -/
def loadTable (bytes : List Byte) : Option (List Instr) := (readTable bytes).map loadCommands

/-- Dumping the store (rules R57, R146): the count and the low five bytes of each `CHUNK_READ`'s data. -/
def dumpTable (count : Word) (data : List Word) : List Byte := le64 count ++ data.flatMap lowFiveBytes

/-! ### The assembler (rule R80): mnemonic, then operands separated by `, `; numbers decimal or `0x` hexadecimal -/

/-- The value of a digit character, in hexadecimal. -/
def digitValue (c : Char) : Option Nat :=
  let n := c.toNat
  if 48 ≤ n ∧ n ≤ 57 then some (n - 48)
  else if 97 ≤ n ∧ n ≤ 102 then some (n - 87)
  else if 65 ≤ n ∧ n ≤ 70 then some (n - 55)
  else none

/-- Digits in a base, most significant first, after the number `acc`. A `_` between two digits only groups them, as in
the spec's own numbers (spec/00_scope.md rule R13); rule R80 does not say whether the assembler takes it, or where
(DESIGN CHOICE, log entry 14: one at a time, and only between digits). -/
def digitsFrom (base acc : Nat) : List Char → Option Nat
  | [] => some acc
  | ['_'] => none
  | '_' :: '_' :: _ => none
  | '_' :: rest => digitsFrom base acc rest
  | c :: rest =>
    match digitValue c with
    | some d => if d < base then digitsFrom base (acc * base + d) rest else none
    | none => none

/-- A number: `0x` and hexadecimal digits, or decimal digits; at least one digit, and none begins with `_` (DESIGN CHOICE,
log entry 14). -/
def number : List Char → Option Nat
  | [] => none
  | '_' :: _ => none
  | '0' :: 'x' :: [] => none
  | '0' :: 'x' :: '_' :: _ => none
  | '0' :: 'x' :: rest => digitsFrom 16 0 rest
  | chars => digitsFrom 10 0 chars

/-- A number that fits `n` bits: an operand out of its range is rejected. -/
def operand (n : Nat) (chars : List Char) : Option (BitVec n) :=
  match number chars with
  | some k => if k < 2 ^ n then some (BitVec.ofNat n k) else none
  | none => none

/-- A register operand: its number from 0 to 13, or its name. -/
def registerOperand (chars : List Char) : Option Byte :=
  match operand 8 chars with
  | some r => if r.toNat ≤ 13 then some r else none
  | none =>
    match allRegs.findIdx? (fun reg => (regName reg).toList == chars) with
    | some k => some (BitVec.ofNat 8 k)
    | none => none

/-- The mnemonic: the characters up to the first space; and what follows that space. -/
def splitMnemonic : List Char → List Char × List Char
  | [] => ([], [])
  | ' ' :: rest => ([], rest)
  | c :: rest => (c :: (splitMnemonic rest).1, (splitMnemonic rest).2)

/-- The operands: the stretches between the separators `, `. -/
def splitOperands : List Char → List (List Char)
  | [] => [[]]
  | ',' :: ' ' :: rest => [] :: splitOperands rest
  | c :: rest =>
    match splitOperands rest with
    | [] => [[c]]
    | first :: more => (c :: first) :: more

/-- The lines that are a mnemonic alone; the absent mode of `ENC_BEGIN` is clear. -/
def bareMnemonics : List (String × Instr) :=
  [ ("NOP", .nop), ("ENC_BEGIN", .encBegin .clear), ("ENC_BEGIN.CLEAR", .encBegin .clear),
    ("ENC_BEGIN.APPEND", .encBegin .append), ("ENC_END", .encEnd), ("DEC_BEGIN", .decBegin),
    ("DEC_PIXEL", .decPixel), ("CHUNK_CLEAR", .chunkClear), ("SOFT_RESET", .softReset) ]

/-- One line with operands. -/
def assembleWithOperands (mnemonic : List Char) (operands : List (List Char)) : Option Instr :=
  match operands with
  | [a] =>
    if mnemonic = "ENC_PIXEL".toList then (operand 8 a).map .encPixel
    else if mnemonic = "CHUNK_READ".toList then (operand 32 a).map .chunkRead
    else if mnemonic = "REG_READ".toList then (registerOperand a).map .regRead
    else none
  | [a, b] =>
    if mnemonic = "CHUNK_LOAD".toList then
      match operand 8 a, operand 32 b with
      | some v, some n => some (.chunkLoad v n)
      | _, _ => none
    else none
  | _ => none

/-- One line of assembler text; none where the assembler rejects it (DESIGN CHOICE on white space, letter case and
`_`, log entry 14). -/
def assemble (line : String) : Option Instr :=
  let chars := line.toList
  match bareMnemonics.find? (fun row => row.1.toList == chars) with
  | some row => some row.2
  | none => assembleWithOperands (splitMnemonic chars).1 (splitOperands (splitMnemonic chars).2)

end Sys2Proof.Machine
end

