-- ==== Sys2Proof/Safety.lean ====
section
/-! DEFINITION. The terms claims are stated in: the invariants of spec/10_state.md rule R45, an idle block, a usable
state (spec/60_exceptions.md rule R175), which command writes what, and runs of inputs. -/

namespace Sys2Proof

/-- The three commands the error-state filter lets through (rule R162). -/
def Instr.passesFilter : Instr → Bool
  | .nop => true
  | .encBegin _ => false
  | .encPixel _ => false
  | .encEnd => false
  | .decBegin => false
  | .decPixel => false
  | .chunkLoad _ _ => false
  | .chunkRead _ => false
  | .chunkClear => false
  | .regRead r => decide (r.toNat ≤ 13)
  | .softReset => true

/-- The commands that have no side effect when they succeed (spec/20_memory.md rule R63). -/
def Instr.isRead : Instr → Bool
  | .nop => true
  | .encBegin _ => false
  | .encPixel _ => false
  | .encEnd => false
  | .decBegin => false
  | .decPixel => false
  | .chunkLoad _ _ => false
  | .chunkRead _ => true
  | .chunkClear => false
  | .regRead _ => true
  | .softReset => false

/-- The commands that write the accumulator `RUN_OPEN`, `RUN_VALUE`, `RUN_LEN` (spec/40_encoder.md rule R100). -/
def Instr.writesAccumulator : Instr → Bool
  | .nop => false
  | .encBegin _ => true
  | .encPixel _ => true
  | .encEnd => true
  | .decBegin => false
  | .decPixel => false
  | .chunkLoad _ _ => false
  | .chunkRead _ => false
  | .chunkClear => false
  | .regRead _ => false
  | .softReset => true

/-- The commands that write the decoder's registers and flags (spec/41_decoder.md rule R120). -/
def Instr.writesDecoder : Instr → Bool
  | .nop => false
  | .encBegin _ => false
  | .encPixel _ => false
  | .encEnd => false
  | .decBegin => true
  | .decPixel => true
  | .chunkLoad _ _ => false
  | .chunkRead _ => false
  | .chunkClear => false
  | .regRead _ => false
  | .softReset => true

/-- The commands that drop `CHUNK_COUNT` to 0 (spec/20_memory.md rule R50), the reset among them. -/
def Instr.emptiesStore : Instr → Bool
  | .nop => false
  | .encBegin m => decide (m = .clear)
  | .encPixel _ => false
  | .encEnd => false
  | .decBegin => false
  | .decPixel => false
  | .chunkLoad _ _ => false
  | .chunkRead _ => false
  | .chunkClear => true
  | .regRead _ => false
  | .softReset => true

/-- The commands that may write an entry of the store, always at `CHUNK_COUNT` (spec/20_memory.md rule R50). -/
def Instr.appendsToStore : Instr → Bool
  | .nop => false
  | .encBegin _ => false
  | .encPixel _ => true
  | .encEnd => true
  | .decBegin => false
  | .decPixel => false
  | .chunkLoad _ _ => true
  | .chunkRead _ => false
  | .chunkClear => false
  | .regRead _ => false
  | .softReset => false

/-- The chunks a pass keeps when it begins: none in clear mode, the store's in append mode (rule R107, `S0` or `[]`). -/
def EncMode.keeps (m : EncMode) (store : Machine.Memory) : Machine.Memory :=
  match m with
  | .clear => []
  | .append => store

end Sys2Proof

namespace Sys2Proof.Machine

/-- INV1 to INV8 of rule R45, with the bounds of the build parameter (spec/00_scope.md rule R10). -/
structure State.Inv (s : State) : Prop where
  /-- `1 <= CHUNK_CAP <= 2^32`. -/
  capBounds : 1 ≤ s.chunkCap ∧ s.chunkCap ≤ 2 ^ 32
  /-- INV1. -/
  oneEngine : ¬ (s.encActive = true ∧ s.decActive = true)
  /-- INV2, a run open. -/
  openRun : s.runOpen = true → s.encActive = true ∧ 1 ≤ s.runLen.toNat
  /-- INV2, no run open. -/
  noRun : s.runOpen = false → s.runValue = 0 ∧ s.runLen = 0
  /-- INV3. -/
  positiveRuns : ∀ i c, Memory.readEntry s.store i = some c → 1 ≤ c.run.toNat
  /-- INV4, the capacity. -/
  withinCap : s.chunkCount ≤ s.chunkCap
  /-- INV4, the pass's base. -/
  baseBelowCount : s.encActive = true → s.passBase.toNat ≤ s.chunkCount
  /-- INV5: count conservation of the pass in progress. -/
  pixelsCounted : s.encActive = true →
    s.pixIn.toNat = Memory.pixels (s.store.drop s.passBase.toNat) + s.runLen.toNat
  /-- INV6, the pass's closed chunks. -/
  maximalChunks : s.encActive = true → ∀ i c d, s.passBase.toNat ≤ i →
    Memory.readEntry s.store i = some c → Memory.readEntry s.store (i + 1) = some d → c.value ≠ d.value
  /-- INV6, the open run. -/
  maximalOpenRun : s.encActive = true → s.runOpen = true → s.passBase.toNat < s.chunkCount →
    ∀ c, Memory.readEntry s.store (s.chunkCount - 1) = some c → c.value ≠ s.runValue
  /-- Not one of rule R45's: a pass with no run open has closed no chunk (rules R103, R104: once a pass holds a run it
  holds one until `ENC_END`). Without it a step need not keep INV6. -/
  freshPass : s.encActive = true → s.runOpen = false → s.chunkCount ≤ s.passBase.toNat
  /-- INV7, the total. -/
  decodeTotal : s.decActive = true → s.decTotal.toNat = Memory.pixels s.store
  /-- INV7, the cursor. -/
  cursorInStore : s.decActive = true →
    ∃ c, Memory.readEntry s.store s.decChunk.toNat = some c ∧ s.decOffset.toNat < c.run.toNat
  /-- INV7, the pixels emitted. -/
  emittedCounted : s.decActive = true →
    s.decEmitted.toNat = Memory.pixels (s.store.take s.decChunk.toNat) + s.decOffset.toNat
      ∧ s.decEmitted.toNat < s.decTotal.toNat
  /-- INV8, no error. -/
  noError : s.err = false → s.errCause = 0 ∧ s.errCmd = 0
  /-- INV8, the error state. -/
  errorCause : s.err = true → ∃ c : Cause, s.errCause = c.value

/-- Neither engine is open and the block is not in the error state: where a pass or a decode may start (rules R107,
R124). -/
def State.Idle (s : State) : Prop := s.err = false ∧ s.encActive = false ∧ s.decActive = false

/-- A state that may hold a result (rule R175): the block is not in the error state. -/
def State.Usable (s : State) : Prop := s.err = false

/-- The two states hold the same registers and store: they may differ in what the host has received and will drive,
and in the model's counter. -/
def State.SameBlock (s t : State) : Prop :=
  { s with inputs := t.inputs, responses := t.responses, freeCount := t.freeCount } = t

/-- `s` after one more response, and nothing else. -/
def State.answers (s : State) (code : Byte) (data : Word) : State :=
  { s with responses := s.responses ++ [⟨code, data⟩] }

/-- `s` after fault entry with cause code `code` for the word `cmd` (spec/60_exceptions.md rule R161), and nothing
else. -/
def State.faulted (s : State) (code : Byte) (cmd : Word) : State :=
  { s with err := true, errCause := code, errCmd := cmd, responses := s.responses ++ [⟨code, 0⟩] }

/-- A pass of these pixels fits the block (rule R107): every run fits 32 bits and every chunk has room. -/
def State.PassFits (s : State) (m : EncMode) (pixels : List Byte) : Prop :=
  (∀ r ∈ encodePixels pixels, r.2 ≤ 0xFFFFFFFF) ∧
    (m.keeps s.store).length + (encodePixels pixels).length ≤ s.chunkCap

/-- Which commands of the table a cause can come from: the "raised by" column of spec/60_exceptions.md rule R160. An
`ILLEGAL_CMD` comes from words that are no command. -/
def Cause.raisedBy : Cause → Instr → Bool
  | .illegalCmd, _ => false
  | .sequence, .encBegin _ => true
  | .sequence, .encPixel _ => true
  | .sequence, .encEnd => true
  | .sequence, .decBegin => true
  | .sequence, .decPixel => true
  | .sequence, _ => false
  | .busy, .encBegin _ => true
  | .busy, .decBegin => true
  | .busy, .chunkLoad _ _ => true
  | .busy, .chunkClear => true
  | .busy, _ => false
  | .runOverflow, .encPixel _ => true
  | .runOverflow, _ => false
  | .storeFull, .encPixel _ => true
  | .storeFull, .encEnd => true
  | .storeFull, .chunkLoad _ _ => true
  | .storeFull, _ => false
  | .zeroRun, .chunkLoad _ _ => true
  | .zeroRun, _ => false
  | .indexRange, .chunkRead _ => true
  | .indexRange, _ => false

/-- The machine after it has taken every input the host drives: one step each. -/
def runInputs (s : State) : Host.Outcome State Fault Refusal := Sys2Proof.core.run s.inputs.length s

end Sys2Proof.Machine
end

