-- ==== Sys2Proof/Certificates/Slice0/Obligations.lean ====
section
/-! DEFINITION. The statements for the provers. Each says which rule of spec/ it formalises. "Answers" and "faulted"
(Sys2Proof/Safety.lean) name the state that differs in one response, or in the fault registers and one response, and
in nothing else; a result written as a record update leaves every field it does not name unchanged, so each result
states its frame too. Where a counter is written `x + 1` it is the 64-bit sum: CountersNeverWrap says that no sum wraps
in a state that meets the invariants. -/

open Sys2Proof Sys2Proof.Machine

/-! ### Encoding -/

/-- The words of spec/30_encoding.md rule R73, written out, decode to the commands they stand for. -/
def Obligations.OpcodeWordsDecode : Prop :=
  decode 0x0000000000000000 = .ok .nop ∧
  decode 0x0000000000000001 = .ok (.encBegin .clear) ∧
  decode 0x0000000000000101 = .ok (.encBegin .append) ∧
  decode 0x0000000000000502 = .ok (.encPixel 5) ∧
  decode 0x0000000000000003 = .ok .encEnd ∧
  decode 0x0000000000000010 = .ok .decBegin ∧
  decode 0x0000000000000011 = .ok .decPixel ∧
  decode 0x0000FFFFFFFFFF20 = .ok (.chunkLoad 255 0xFFFFFFFF) ∧
  decode 0x0000000000010021 = .ok (.chunkRead 1) ∧
  decode 0x0000000000000022 = .ok .chunkClear ∧
  decode 0x0000000000000D30 = .ok (.regRead 13) ∧
  decode 0x000000000000003F = .ok .softReset

/-- Decoding the word of a well-formed command gives the command, with every operand at every value. -/
def Obligations.DecodeOfEncodeIsTheCommand : Prop :=
  ∀ i : Instr, i.wf = true → decode (encode i) = .ok i

/-- A word that decodes is the one word of a well-formed command: no command has two words. -/
def Obligations.EncodeOfDecodeIsTheWord : Prop :=
  ∀ (cmd : Word) (i : Instr), decode cmd = .ok i → i.wf = true ∧ encode i = cmd

/-- Rule R73: decoding by fields agrees with the opcode table's masks and matches, and at most one row of the table is
selected by any word. -/
def Obligations.DecodeAgreesWithOpcodeTable : Prop :=
  (∀ (cmd : Word) (i : Instr), decode cmd = .ok i ↔ decodeByTable cmd = some i) ∧
  ∀ (cmd : Word) (j k : Fin 11),
    (opcodeTable[j.val]?.any fun row => row.selectedBy cmd) = true →
    (opcodeTable[k.val]?.any fun row => row.selectedBy cmd) = true → j = k

/-- Rule R75: the illegal words are those with an unassigned opcode, with a must-be-zero bit of their opcode's row set,
or with a register number of 14 or more; executing one faults `ILLEGAL_CMD`. -/
def Obligations.IllegalWordsFault : Prop :=
  (∀ cmd : Word, (∀ i, decode cmd ≠ .ok i) ↔
    ((∀ row ∈ opcodeTable, opField row.pattern ≠ opField cmd) ∨
      (∃ row ∈ opcodeTable, opField row.pattern = opField cmd ∧ row.selectedBy cmd = false) ∨
      (opField cmd = 0x30 ∧ 14 ≤ (bField cmd).toNat))) ∧
  ∀ (cmd : Word) (s : State), (∀ i, decode cmd ≠ .ok i) → s.err = false →
    carryOut cmd s = .next (s.faulted 0x01 cmd)

/-! ### The step -/

/-- A step runs the decoded command: with a command word at the head of the host's inputs, one step is `exec` of the
command it decodes to, at the state with that input taken. Nothing else is added around `exec`: the error-state filter
is part of each meaning. -/
def Obligations.StepRunsDecodedCommand : Prop :=
  ∀ (s : State) (cmd : Word) (rest : List Input) (i : Instr),
    s.inputs = .command cmd :: rest → decode cmd = .ok i → step s = exec i { s with inputs := rest }

/-- Between commands the block keeps all its state (rules R8, R174). That a step with no input answers the same state is
the model's reading (log entry 3). -/
def Obligations.IdleBlockKeepsItsState : Prop :=
  ∀ s : State, s.inputs = [] → step s = .next s

/-- Rule R190, by the hardware reset input: every register takes its reset value, the store is empty, `CHUNK_CAP` is not
written. The input has no response (log entry 9), and `SOFT_RESET` leaves the same registers and store. -/
def Obligations.ResetInputResetsTheBlock : Prop :=
  ∀ (s : State) (rest : List Input), s.inputs = .hardReset :: rest →
    step s = .next
      { encActive := false, runOpen := false, append := false, decActive := false, decDone := false, err := false,
        errCause := 0, errCmd := 0, chunkCap := s.chunkCap, store := [], passBase := 0, pixIn := 0, runValue := 0,
        runLen := 0, decTotal := 0, decEmitted := 0, decChunk := 0, decOffset := 0, inputs := rest,
        responses := s.responses, freeCount := s.freeCount } ∧
    ∃ t u, step s = .next t ∧ exec .softReset s = .next u ∧ t.SameBlock u

/-- Rule R193: reset during a command leaves the same block whether or not the command took effect, and either nothing has
arrived, or the one response the command gives when it is carried out at the state before the reset. That a response which
arrives is this one is the model's choice (log entry 8); which of the two happens is a free value. -/
def Obligations.ResetDuringCommandLeavesResetBlock : Prop :=
  ∀ (s : State) (cmd : Word) (rest : List Input), s.inputs = .resetDuring cmd :: rest →
    ∃ t, step s = .next t ∧ (State.resetWith s.chunkCap).SameBlock t ∧ t.inputs = rest ∧
      (t.responses = s.responses ∨
        ∃ u r, carryOut cmd { s with inputs := rest } = .next u ∧ u.responses = s.responses ++ [r] ∧
          t.responses = u.responses)

/-- After reset the block is idle, with an empty store, and every register reads 0 but the constants (rules R20, R190,
R192). -/
def Obligations.ResetRegistersRead : Prop :=
  State.reset.Idle ∧ State.reset.store = [] ∧ State.reset.readReg .id = 1 ∧
  State.reset.readReg .chunkCap = BitVec.ofNat 64 Config.chunkCap ∧
  ∀ r : Reg, r ≠ .id → r ≠ .chunkCap → State.reset.readReg r = 0

/-! ### The commands, outside the error state -/

/-- Rule R103. -/
def Obligations.EncBeginFollowsItsRule : Prop :=
  (encode (.encBegin .clear) = 0x001 ∧ encode (.encBegin .append) = 0x101) ∧
  ∀ s : State, s.err = false →
    (∀ m, s.decActive = true → exec (.encBegin m) s = .next (s.faulted 0x03 (encode (.encBegin m)))) ∧
    (∀ m, s.decActive = false → s.encActive = true →
      exec (.encBegin m) s = .next (s.faulted 0x02 (encode (.encBegin m)))) ∧
    (s.decActive = false → s.encActive = false →
      exec (.encBegin .clear) s = .next (State.answers
        { s with store := [], passBase := 0, append := false, encActive := true, runOpen := false, runValue := 0,
                 runLen := 0, pixIn := 0 } 0 0) ∧
      exec (.encBegin .append) s = .next (State.answers
        { s with passBase := BitVec.ofNat 64 s.store.length, append := true, encActive := true, runOpen := false,
                 runValue := 0, runLen := 0, pixIn := 0 } 0 (BitVec.ofNat 64 s.store.length)))

/-- Rule R104. -/
def Obligations.EncPixelFollowsItsRule : Prop :=
  (∀ v : Byte, (encode (.encPixel v)).toNat = v.toNat * 2 ^ 8 + 0x02) ∧
  ∀ (v : Byte) (s : State), s.err = false →
    (s.encActive = false → exec (.encPixel v) s = .next (s.faulted 0x02 (encode (.encPixel v)))) ∧
    (s.encActive = true → s.runOpen = false →
      exec (.encPixel v) s = .next (State.answers
        { s with runOpen := true, runValue := v, runLen := 1, pixIn := s.pixIn + 1 } 0 0)) ∧
    (s.encActive = true → s.runOpen = true → v = s.runValue → s.runLen = 0xFFFFFFFF →
      exec (.encPixel v) s = .next (s.faulted 0x04 (encode (.encPixel v)))) ∧
    (s.encActive = true → s.runOpen = true → v = s.runValue → s.runLen ≠ 0xFFFFFFFF →
      exec (.encPixel v) s = .next (State.answers { s with runLen := s.runLen + 1, pixIn := s.pixIn + 1 } 0 0)) ∧
    (s.encActive = true → s.runOpen = true → v ≠ s.runValue → s.store.length = s.chunkCap →
      exec (.encPixel v) s = .next (s.faulted 0x05 (encode (.encPixel v)))) ∧
    (s.encActive = true → s.runOpen = true → v ≠ s.runValue → s.store.length ≠ s.chunkCap →
      exec (.encPixel v) s = .next (State.answers
        { s with store := s.store ++ [⟨s.runValue, s.runLen⟩], runValue := v, runLen := 1, pixIn := s.pixIn + 1 } 0 1))

/-- Rule R105. -/
def Obligations.EncEndFollowsItsRule : Prop :=
  encode .encEnd = 0x03 ∧
  ∀ s : State, s.err = false →
    (s.encActive = false → exec .encEnd s = .next (s.faulted 0x02 0x03)) ∧
    (s.encActive = true → s.runOpen = true → s.store.length = s.chunkCap →
      exec .encEnd s = .next (s.faulted 0x05 0x03)) ∧
    (s.encActive = true → s.runOpen = true → s.store.length ≠ s.chunkCap →
      exec .encEnd s = .next (State.answers
        { s with store := s.store ++ [⟨s.runValue, s.runLen⟩], runOpen := false, runValue := 0, runLen := 0,
                 encActive := false } 0 (BitVec.ofNat 64 (s.store.length + 1) - s.passBase))) ∧
    (s.encActive = true → s.runOpen = false →
      exec .encEnd s = .next (State.answers
        { s with runValue := 0, runLen := 0, encActive := false } 0
        (BitVec.ofNat 64 s.store.length - s.passBase)))

/-- Rule R121. The total fits 64 bits in every state that meets the invariants (CountersNeverWrap). -/
def Obligations.DecBeginFollowsItsRule : Prop :=
  encode .decBegin = 0x10 ∧
  ∀ s : State, s.err = false →
    (s.encActive = true → exec .decBegin s = .next (s.faulted 0x03 0x10)) ∧
    (s.encActive = false → s.decActive = true → exec .decBegin s = .next (s.faulted 0x02 0x10)) ∧
    (s.encActive = false → s.decActive = false → ∀ total, total = (s.store.map fun c => c.run.toNat).sum →
      total < 2 ^ 64 →
      (total = 0 → exec .decBegin s = .next (State.answers
        { s with decTotal := 0, decEmitted := 0, decChunk := 0, decOffset := 0, decActive := false,
                 decDone := true } 0 0)) ∧
      (total ≠ 0 → exec .decBegin s = .next (State.answers
        { s with decTotal := BitVec.ofNat 64 total, decEmitted := 0, decChunk := 0, decOffset := 0,
                 decActive := true, decDone := false } 0 (BitVec.ofNat 64 total))))

/-- Rule R122. In every state that meets the invariants the cursor names an entry (INV7). -/
def Obligations.DecPixelFollowsItsRule : Prop :=
  encode .decPixel = 0x11 ∧
  ∀ s : State, s.err = false →
    (s.decActive = false → exec .decPixel s = .next (s.faulted 0x02 0x11)) ∧
    (∀ c : Chunk, s.decActive = true → s.store[s.decChunk.toNat]? = some c →
      exec .decPixel s = .next (State.answers
        { s with
          decEmitted := s.decEmitted + 1
          decChunk := if s.decOffset.toNat + 1 = c.run.toNat then s.decChunk + 1 else s.decChunk
          decOffset := if s.decOffset.toNat + 1 = c.run.toNat then 0 else s.decOffset + 1
          decActive := if s.decEmitted + 1 = s.decTotal then false else true
          decDone := if s.decEmitted + 1 = s.decTotal then true else s.decDone } 0 (c.value.setWidth 64)))

/-- The model's own choice (log entry 6): a `DEC_PIXEL` whose cursor names no entry, which no reachable state has, stops
the model and gives no pixel. -/
def Obligations.DecPixelBeyondTheCountStops : Prop :=
  ∀ s : State, s.err = false → s.decActive = true → s.store.length ≤ s.decChunk.toNat →
    exec .decPixel s = .fault .entryBeyondCount

/-- Rule R140. -/
def Obligations.ChunkLoadFollowsItsRule : Prop :=
  (∀ (v : Byte) (n : RunLength), (encode (.chunkLoad v n)).toNat = n.toNat * 2 ^ 16 + v.toNat * 2 ^ 8 + 0x20) ∧
  ∀ (v : Byte) (n : RunLength) (s : State), s.err = false →
    (s.encActive = true ∨ s.decActive = true →
      exec (.chunkLoad v n) s = .next (s.faulted 0x03 (encode (.chunkLoad v n)))) ∧
    (s.encActive = false → s.decActive = false → n = 0 →
      exec (.chunkLoad v n) s = .next (s.faulted 0x06 (encode (.chunkLoad v n)))) ∧
    (s.encActive = false → s.decActive = false → n ≠ 0 → s.store.length = s.chunkCap →
      exec (.chunkLoad v n) s = .next (s.faulted 0x05 (encode (.chunkLoad v n)))) ∧
    (s.encActive = false → s.decActive = false → n ≠ 0 → s.store.length ≠ s.chunkCap →
      exec (.chunkLoad v n) s = .next (State.answers { s with store := s.store ++ [⟨v, n⟩] } 0
        (BitVec.ofNat 64 (s.store.length + 1))))

/-- Rule R141, with the chunk word of rule R78. -/
def Obligations.ChunkReadFollowsItsRule : Prop :=
  (∀ i : RunLength, (encode (.chunkRead i)).toNat = i.toNat * 2 ^ 16 + 0x21) ∧
  ∀ (i : RunLength) (s : State), s.err = false →
    (s.store.length ≤ i.toNat → exec (.chunkRead i) s = .next (s.faulted 0x07 (encode (.chunkRead i)))) ∧
    (∀ c : Chunk, s.store[i.toNat]? = some c →
      exec (.chunkRead i) s = .next (s.answers 0 (BitVec.ofNat 64 (c.run.toNat * 2 ^ 8 + c.value.toNat))))

/-- Rule R142. -/
def Obligations.ChunkClearFollowsItsRule : Prop :=
  encode .chunkClear = 0x22 ∧
  ∀ s : State, s.err = false →
    (s.encActive = true ∨ s.decActive = true → exec .chunkClear s = .next (s.faulted 0x03 0x22)) ∧
    (s.encActive = false → s.decActive = false →
      exec .chunkClear s = .next (State.answers { s with store := [] } 0 0))

/-- Rules R43 and R143, in every state: registers 0 to 13 are read, zero-extended, and nothing is written; a number of
14 or more faults `ILLEGAL_CMD`, or is `BLOCKED` in the error state; a word with a non-zero `W` or `RSV` is no command. -/
def Obligations.RegReadFollowsItsRule : Prop :=
  (∀ r : Byte, (encode (.regRead r)).toNat = r.toNat * 2 ^ 8 + 0x30) ∧
  (∀ cmd : Word, opField cmd = 0x30 → wField cmd ≠ 0 ∨ rsvField cmd ≠ 0 → ∀ i, decode cmd ≠ .ok i) ∧
  ∀ s : State,
    exec (.regRead 0) s = .next (s.answers 0 1) ∧
    exec (.regRead 1) s = .next (s.answers 0 (BitVec.ofNat 64
      (s.encActive.toNat + 2 * s.runOpen.toNat + 4 * s.append.toNat + 8 * s.decActive.toNat + 16 * s.decDone.toNat
        + 32 * s.err.toNat))) ∧
    exec (.regRead 2) s = .next (s.answers 0 (BitVec.ofNat 64 s.errCause.toNat)) ∧
    exec (.regRead 3) s = .next (s.answers 0 s.errCmd) ∧
    exec (.regRead 4) s = .next (s.answers 0 (BitVec.ofNat 64 s.store.length)) ∧
    exec (.regRead 5) s = .next (s.answers 0 (BitVec.ofNat 64 s.chunkCap)) ∧
    exec (.regRead 6) s = .next (s.answers 0 s.passBase) ∧
    exec (.regRead 7) s = .next (s.answers 0 s.pixIn) ∧
    exec (.regRead 8) s = .next (s.answers 0 (BitVec.ofNat 64 s.runValue.toNat)) ∧
    exec (.regRead 9) s = .next (s.answers 0 (BitVec.ofNat 64 s.runLen.toNat)) ∧
    exec (.regRead 10) s = .next (s.answers 0 s.decTotal) ∧
    exec (.regRead 11) s = .next (s.answers 0 s.decEmitted) ∧
    exec (.regRead 12) s = .next (s.answers 0 s.decChunk) ∧
    exec (.regRead 13) s = .next (s.answers 0 (BitVec.ofNat 64 s.decOffset.toNat)) ∧
    (∀ r : Byte, 14 ≤ r.toNat → s.err = false → exec (.regRead r) s = .next (s.faulted 0x01 (encode (.regRead r)))) ∧
    (∀ r : Byte, 14 ≤ r.toNat → s.err = true → exec (.regRead r) s = .next (s.answers 0x08 0))

/-- Rule R144: in every state, the error state included. -/
def Obligations.NopOnlyAnswers : Prop :=
  encode .nop = 0 ∧ ∀ s : State, exec .nop s = .next (s.answers 0 0)

/-- Rule R145 with the operation of rule R190: in every state, the error state included. -/
def Obligations.SoftResetFollowsItsRule : Prop :=
  encode .softReset = 0x3F ∧
  ∀ s : State, exec .softReset s = .next
    { encActive := false, runOpen := false, append := false, decActive := false, decDone := false, err := false,
      errCause := 0, errCmd := 0, chunkCap := s.chunkCap, store := [], passBase := 0, pixIn := 0, runValue := 0,
      runLen := 0, decTotal := 0, decEmitted := 0, decChunk := 0, decOffset := 0, inputs := s.inputs,
      responses := s.responses ++ [⟨0, 0⟩], freeCount := s.freeCount }

/-- Rule R42: `STATUS` bit by bit. -/
def Obligations.StatusBitsAreTheFlags : Prop :=
  ∀ s : State,
    (s.readReg .status).getLsbD 0 = s.encActive ∧ (s.readReg .status).getLsbD 1 = s.runOpen ∧
    (s.readReg .status).getLsbD 2 = s.append ∧ (s.readReg .status).getLsbD 3 = s.decActive ∧
    (s.readReg .status).getLsbD 4 = s.decDone ∧ (s.readReg .status).getLsbD 5 = s.err ∧
    ∀ k, 6 ≤ k → (s.readReg .status).getLsbD k = false

/-! ### Faults and the error state -/

/-- Rule R162: in the error state a well-formed `NOP`, `REG_READ` or `SOFT_RESET` runs by its rule; every other word is
answered `BLOCKED` and no state changes. -/
def Obligations.ErrorStateFilterBlocks : Prop :=
  ∀ (cmd : Word) (s : State), s.err = true →
    (∀ i, decode cmd = .ok i → i.passesFilter = true → carryOut cmd s = exec i s) ∧
    ((∀ i, decode cmd = .ok i → i.passesFilter = false) → carryOut cmd s = .next (s.answers 0x08 0))

/-- Rule R161: a word that faults writes `ERR`, `ERR_CAUSE` and `ERR_CMD`, answers (cause, 0), and changes nothing else. -/
def Obligations.FaultsArePrecise : Prop :=
  ∀ (cmd : Word) (s t : State), s.err = false → carryOut cmd s = .next t → t.err = true →
    ∃ c : Cause, t = s.faulted c.value cmd

/-- Rule R160, "raised by": a command of the table that faults does so with a cause listed for it. -/
def Obligations.CausesComeFromTheirCommands : Prop :=
  ∀ (i : Instr) (s t : State), i.wf = true → s.err = false → exec i s = .next t → t.err = true →
    ∃ c : Cause, t.errCause = c.value ∧ c.raisedBy i = true

/-- Rule R77: every command word gets exactly one response; its code is one of 0 to 8, and a fault's data is 0. -/
def Obligations.EveryCommandAnswersOnce : Prop :=
  ∀ (cmd : Word) (s t : State), carryOut cmd s = .next t →
    ∃ r : Response, t.responses = s.responses ++ [r] ∧ r.code.toNat ≤ 8 ∧ (r.code ≠ 0 → r.data = 0)

/-- Rule R163: the error state is left only by reset: the reset input (alone or during a command) or `SOFT_RESET`. What is
left is an empty store with no pass and no decode to resume. -/
def Obligations.OnlyResetLeavesTheErrorState : Prop :=
  ∀ s t : State, s.err = true → step s = .next t → t.err = false →
    ((∃ rest, s.inputs = .hardReset :: rest) ∨ (∃ cmd rest, s.inputs = .resetDuring cmd :: rest) ∨
      (∃ cmd rest, s.inputs = .command cmd :: rest ∧ decode cmd = .ok .softReset)) ∧
    t.store = [] ∧ t.encActive = false ∧ t.decActive = false

/-- Rule R164: over any sequence of command words without a `SOFT_RESET`, the error state keeps the registers of the first
fault, and the whole block with them. -/
def Obligations.ErrorStateKeepsTheFirstFault : Prop :=
  ∀ (words : List Word) (s t : State), s.err = true → s.inputs = words.map .command →
    (∀ cmd ∈ words, decode cmd ≠ .ok .softReset) → runInputs s = .next t →
    s.SameBlock t ∧ t.responses.length = s.responses.length + words.length

/-- Rule R175: over any sequence of command words without a `SOFT_RESET`, from outside the error state, the state is
usable at the end exactly when every response received is `OK`. -/
def Obligations.UsableExactlyWhenEveryResponseIsOk : Prop :=
  ∀ (words : List Word) (s t : State), s.err = false → s.inputs = words.map .command →
    (∀ cmd ∈ words, decode cmd ≠ .ok .softReset) → runInputs s = .next t →
    (t.Usable ↔ ∀ r ∈ t.responses.drop s.responses.length, r.code = 0)

/-! ### Whole-machine rules -/

/-- Rule R20, "written by", with rules R100 and R120: each register is written only by the commands listed for it, by a
fault (the error registers), or by reset; the constant is never written. -/
def Obligations.RegistersAreWrittenOnlyByTheirCommands : Prop :=
  ∀ (i : Instr) (s t : State), exec i s = .next t →
    t.chunkCap = s.chunkCap ∧ t.inputs = s.inputs ∧ t.freeCount = s.freeCount ∧
    (i.writesAccumulator = false → t.runOpen = s.runOpen ∧ t.runValue = s.runValue ∧ t.runLen = s.runLen) ∧
    (i.writesDecoder = false → t.decActive = s.decActive ∧ t.decDone = s.decDone ∧ t.decTotal = s.decTotal ∧
      t.decEmitted = s.decEmitted ∧ t.decChunk = s.decChunk ∧ t.decOffset = s.decOffset) ∧
    (i ≠ .decBegin → i ≠ .softReset → t.decTotal = s.decTotal) ∧
    ((∀ m, i ≠ .encBegin m) → i ≠ .softReset → t.passBase = s.passBase ∧ t.append = s.append) ∧
    ((∀ m, i ≠ .encBegin m) → (∀ v, i ≠ .encPixel v) → i ≠ .softReset → t.pixIn = s.pixIn) ∧
    ((∀ m, i ≠ .encBegin m) → i ≠ .encEnd → i ≠ .softReset → t.encActive = s.encActive) ∧
    (i.emptiesStore = false → i.appendsToStore = false → t.store = s.store) ∧
    (i ≠ .softReset → (t.err = s.err ∧ t.errCause = s.errCause ∧ t.errCmd = s.errCmd) ∨
      (s.err = false ∧ t.err = true))

/-- Rule R52: a command leaves the store as it is, writes one entry at `CHUNK_COUNT`, or empties it; no command rewrites
an entry below the count. -/
def Obligations.StoreWritesAreAppendOnly : Prop :=
  ∀ (i : Instr) (s t : State), exec i s = .next t →
    t.store = s.store ∨ (i.appendsToStore = true ∧ ∃ c, t.store = s.store ++ [c]) ∨
    (i.emptiesStore = true ∧ t.store = [])

/-- Rules R127 and R196: while an engine owns the store, starting the other engine, loading or clearing faults `BUSY`; and
no command but the owner's own, or reset, changes the store. -/
def Obligations.OpenEngineOwnsTheStore : Prop :=
  ∀ s : State, s.err = false →
    (s.decActive = true →
      (∀ m, exec (.encBegin m) s = .next (s.faulted 0x03 (encode (.encBegin m)))) ∧
      (s.encActive = false → ∀ (i : Instr) (t : State), exec i s = .next t → i ≠ .softReset → t.store = s.store)) ∧
    (s.encActive = true →
      exec .decBegin s = .next (s.faulted 0x03 0x10) ∧
      (∀ (i : Instr) (t : State), exec i s = .next t → i ≠ .softReset → (∀ v, i ≠ .encPixel v) → i ≠ .encEnd →
        t.store = s.store)) ∧
    (s.encActive = true ∨ s.decActive = true →
      (∀ v n, exec (.chunkLoad v n) s = .next (s.faulted 0x03 (encode (.chunkLoad v n)))) ∧
      exec .chunkClear s = .next (s.faulted 0x03 0x22))

/-- Rule R198: an open pass is closed only by `ENC_END` or reset, an open decode only by the `DEC_PIXEL` that emits the
last pixel or by reset. -/
def Obligations.EnginesCloseOnlyAtTheirEnd : Prop :=
  ∀ (i : Instr) (s t : State), exec i s = .next t → i ≠ .softReset →
    (s.encActive = true → t.encActive = false → i = .encEnd) ∧
    (s.decActive = true → t.decActive = false →
      i = .decPixel ∧ t.decEmitted = s.decTotal ∧ t.decDone = true)

/-- Rule R63: a `CHUNK_READ`, `REG_READ` or `NOP` that succeeds writes no state, and repeating it returns the same data. -/
def Obligations.SuccessfulReadsChangeNothing : Prop :=
  ∀ (i : Instr) (s t : State) (d : Word), (∃ j, i = .chunkRead j) ∨ (∃ r, i = .regRead r) ∨ i = .nop →
    exec i s = .next t → t.responses = s.responses ++ [⟨0, d⟩] →
    s.SameBlock t ∧ ∃ u, exec i t = .next u ∧ t.SameBlock u ∧ u.responses = t.responses ++ [⟨0, d⟩]

/-- Rule R44: no state is hidden. Two states that meet the invariants and answer alike to every `REG_READ` and to every
`CHUNK_READ` of a stored entry hold the same registers and store. -/
def Obligations.NoStateIsHidden : Prop :=
  ∀ s t : State, s.Inv → t.Inv → (∀ r : Reg, s.readReg r = t.readReg r) →
    (∀ (i : Nat) (c : Chunk), Memory.readEntry s.store i = some c →
      ∃ d, Memory.readEntry t.store i = some d ∧ chunkWord c = chunkWord d) →
    s.SameBlock t

/-! ### Invariants -/

/-- The invariants hold right after reset, for every capacity the spec allows and for the open one. -/
def Obligations.InvariantsHoldAtReset : Prop :=
  (∀ cap : Nat, 1 ≤ cap → cap ≤ 2 ^ 32 → (State.resetWith cap).Inv) ∧ State.reset.Inv

/-- Every step keeps the invariants INV1 to INV8 of rule R45, from every state that meets them. -/
def Obligations.StepKeepsTheInvariants : Prop :=
  ∀ s t : State, s.Inv → step s = .next t → t.Inv

/-- Rule R45: every state reachable from reset, by any sequence of inputs, satisfies the invariants. -/
def Obligations.ReachableStatesMeetTheInvariants : Prop :=
  ∀ (cap : Nat) (inputs : List Input) (n : Nat) (t : State), 1 ≤ cap → cap ≤ 2 ^ 32 →
    Sys2Proof.core.run n { State.resetWith cap with inputs := inputs } = .next t → t.Inv

/-- Rule R7: from a state that meets the invariants every input is carried out: the step is total there, with no stop of
the model, whatever 64-bit word the host issues. -/
def Obligations.EveryInputIsCarriedOut : Prop :=
  ∀ s : State, s.Inv → ∃ t, step s = .next t

/-- Rules R14, R29, R34 and R122: in a state that meets the invariants no counter wraps; every sum and difference that log
entry 7 names is the one of natural numbers. `CHUNK_COUNT` and `CHUNK_CAP` read as the numbers they are, as `PASS_BASE` does
when a pass begins. An accepted pixel raises `PIX_IN` by exactly 1, and `RUN_LEN` by exactly 1 when it extends the run;
`ENC_END` answers `CHUNK_COUNT - PASS_BASE`; the decode's total is the sum itself; an emitted pixel raises `DEC_EMITTED` by
exactly 1, and either `DEC_CHUNK` or `DEC_OFFSET` by exactly 1; `CHUNK_LOAD` answers the count itself. -/
def Obligations.CountersNeverWrap : Prop :=
  ∀ s t : State, s.Inv → s.err = false → t.err = false →
    ((s.readReg .chunkCount).toNat = s.store.length ∧ (s.readReg .chunkCap).toNat = s.chunkCap) ∧
    (∀ m, exec (.encBegin m) s = .next t → t.passBase.toNat = t.store.length) ∧
    (∀ v, exec (.encPixel v) s = .next t → t.pixIn.toNat = s.pixIn.toNat + 1 ∧
      (s.runOpen = true → v = s.runValue → t.runLen.toNat = s.runLen.toNat + 1)) ∧
    (exec .encEnd s = .next t → ∃ d : Word, t.responses = s.responses ++ [⟨0, d⟩] ∧
      d.toNat + t.passBase.toNat = t.store.length) ∧
    (exec .decBegin s = .next t → t.decTotal.toNat = (s.store.map fun c => c.run.toNat).sum) ∧
    (exec .decPixel s = .next t → t.decEmitted.toNat = s.decEmitted.toNat + 1 ∧
      ∀ c, s.store[s.decChunk.toNat]? = some c →
        (s.decOffset.toNat + 1 = c.run.toNat → t.decChunk.toNat = s.decChunk.toNat + 1 ∧ t.decOffset.toNat = 0) ∧
        (s.decOffset.toNat + 1 ≠ c.run.toNat →
          t.decChunk.toNat = s.decChunk.toNat ∧ t.decOffset.toNat = s.decOffset.toNat + 1)) ∧
    (∀ v n, exec (.chunkLoad v n) s = .next t → ∃ d : Word, t.responses = s.responses ++ [⟨0, d⟩] ∧
      d.toNat = t.store.length)

/-! ### The reference functions -/

/-- Rule R110, round trip, positivity and count conservation. -/
def Obligations.EncodingDecodesToItsPixels : Prop :=
  ∀ pixels : List Byte, decodeRuns (encodePixels pixels) = pixels ∧
    (∀ r ∈ encodePixels pixels, 1 ≤ r.2) ∧ totalLength (encodePixels pixels) = pixels.length

/-- Rule R110, maximality and the boundary law: no two adjacent chunks of one encoding have equal values, and `N` equal
pixels give one chunk. -/
def Obligations.EncodingIsMaximal : Prop :=
  (∀ (pixels : List Byte) (k : Nat) (a b : Run), (encodePixels pixels)[k]? = some a →
    (encodePixels pixels)[k + 1]? = some b → a.1 ≠ b.1) ∧
  ∀ (v : Byte) (n : Nat), encodePixels (List.replicate n v) = if n = 0 then [] else [(v, n)]

/-- Rule R110, minimality: the encoding has one chunk for each maximal run, and no sequence that decodes to the same
pixels is shorter. -/
def Obligations.EncodingIsMinimal : Prop :=
  ∀ pixels : List Byte, (encodePixels pixels).length = maximalRuns pixels ∧
    ∀ seq : List Run, decodeRuns seq = pixels → (encodePixels pixels).length ≤ seq.length

/-- Rules R56 and R58: a chunk table is `8 + 5 * len(seq)` bytes, reading it gives the sequence back, and a table cut
short is refused. -/
def Obligations.ChunkTableReadsBack : Prop :=
  ∀ seq : Memory, seq.length < 2 ^ 64 →
    (chunkTable seq).length = 8 + 5 * seq.length ∧ readTable (chunkTable seq) = some seq ∧
    ∀ k, k < (chunkTable seq).length → readTable ((chunkTable seq).take k) = none

/-- Rule R57: the low five bytes of the chunk word that `CHUNK_READ` returns are the record of the chunk table, so the
count and those bytes of every `CHUNK_READ` are the chunk table. -/
def Obligations.DumpedChunkWordsAreTheTable : Prop :=
  (∀ c : Chunk, lowFiveBytes (chunkWord c) = chunkRecord c) ∧
  ∀ seq : Memory, dumpTable (BitVec.ofNat 64 seq.length) (seq.map chunkWord) = chunkTable seq

/-! ### Passes, loads and decodes -/

/-- Rule R107, the pass that fits: from an idle block every command of the pass is answered `OK`, the store then holds the
encoding after the chunks the mode keeps, and the pass's registers say so. -/
def Obligations.EncodePassStoresTheEncoding : Prop :=
  ∀ (m : EncMode) (pixels : List Byte) (s : State), s.Idle → s.PassFits m pixels →
    s.inputs = issue (encodeCommands m pixels) →
    ∃ t, runInputs s = .next t ∧ t.Idle ∧ t.inputs = [] ∧ t.runOpen = false ∧
      Memory.runs t.store = Memory.runs (m.keeps s.store) ++ encodePixels pixels ∧
      t.passBase = BitVec.ofNat 64 (m.keeps s.store).length ∧ t.pixIn = BitVec.ofNat 64 pixels.length ∧
      ∃ marks : List Word, marks.length = pixels.length + 1 ∧
        t.responses = s.responses ++ marks.map (fun d => ⟨0, d⟩)
          ++ [⟨0, BitVec.ofNat 64 (encodePixels pixels).length⟩]

/-- Rule R107, the pass that does not fit: exactly one command faults, with `RUN_OVERFLOW` or `STORE_FULL`; every command
before it is answered `OK`, every later one `BLOCKED`. `k` is the number of commands before it, `ENC_BEGIN` counted, and
`ERR_CMD` is the word of command `k`. `RUN_OVERFLOW` is an `ENC_PIXEL` that would make a run of `2^32` pixels; `STORE_FULL` is
the command that would write chunk number `CHUNK_CAP - base` of the pass: with the pixels before it, the kept chunks and the
pass's, its open run among them, are one more than the capacity. -/
def Obligations.EncodePassThatDoesNotFitFaultsOnce : Prop :=
  ∀ (m : EncMode) (pixels : List Byte) (s : State), s.Idle → s.chunkCount ≤ s.chunkCap → ¬ s.PassFits m pixels →
    s.inputs = issue (encodeCommands m pixels) →
    ∃ t k, runInputs s = .next t ∧ t.err = true ∧ (t.errCause = 0x04 ∨ t.errCause = 0x05) ∧ k ≤ pixels.length + 1 ∧
      (encodeCommands m pixels)[k]?.map encode = some t.errCmd ∧
      (t.errCause = 0x04 → k ≤ pixels.length ∧ ∃ r ∈ encodePixels (pixels.take k), r.2 = 2 ^ 32) ∧
      (t.errCause = 0x05 →
        (m.keeps s.store).length + (encodePixels (pixels.take (k - 1))).length = s.chunkCap + 1) ∧
      t.responses.map Response.code = s.responses.map Response.code ++ List.replicate k 0 ++ [t.errCause]
        ++ List.replicate (pixels.length + 1 - k) 0x08

/-- Rules R58 and R146: loading a sequence of positive runs that fits leaves exactly that sequence in the store. -/
def Obligations.LoadedSequenceIsStored : Prop :=
  ∀ (seq : Memory) (s : State), s.Idle → (∀ c ∈ seq, c.run ≠ 0) → seq.length ≤ s.chunkCap →
    s.inputs = issue (loadCommands seq) →
    ∃ t, runInputs s = .next t ∧ t.Idle ∧ t.store = seq ∧
      t.responses = s.responses ++ ⟨0, 0⟩ :: (List.range seq.length).map (fun k => ⟨0, BitVec.ofNat 64 (k + 1)⟩)

/-- Rule R124: from an idle block a decode answers the total, then the pixels of the stored sequence in order; afterwards
the decode is done, the cursor stands at the count, the store is unchanged, and one more `DEC_PIXEL` faults
`SEQUENCE`. -/
def Obligations.DecodeReturnsTheStoredPixels : Prop :=
  ∀ s : State, s.Inv → s.Idle →
    s.inputs = issue (decodeCommands (totalLength (Memory.runs s.store))) →
    ∃ t, runInputs s = .next t ∧
      t.responses = s.responses ++ ⟨0, BitVec.ofNat 64 (totalLength (Memory.runs s.store))⟩ ::
        (decodeRuns (Memory.runs s.store)).map (fun v => ⟨0, v.setWidth 64⟩) ∧
      t.err = false ∧ t.decActive = false ∧ t.decDone = true ∧
      t.decEmitted = BitVec.ofNat 64 (totalLength (Memory.runs s.store)) ∧
      t.decChunk = BitVec.ofNat 64 s.chunkCount ∧ t.decOffset = 0 ∧ t.store = s.store ∧
      exec .decPixel t = .next (t.faulted 0x02 0x11)

/-- Rule R128: a pass that fits, then a decode, returns the pixels of the chunks the mode kept followed by the pass's
own, pixel for pixel; before them `DEC_BEGIN` answers how many there are. -/
def Obligations.PassThenDecodeReturnsThePixels : Prop :=
  ∀ (m : EncMode) (pixels : List Byte) (s : State), s.Inv → s.Idle → s.PassFits m pixels →
    s.inputs = issue (encodeCommands m pixels ++
      decodeCommands (totalLength (Memory.runs (m.keeps s.store)) + pixels.length)) →
    ∃ t before, runInputs s = .next t ∧ before.length = s.responses.length + pixels.length + 3 ∧
      before.getLast? = some ⟨0, BitVec.ofNat 64 (totalLength (Memory.runs (m.keeps s.store)) + pixels.length)⟩ ∧
      t.responses = before ++ (decodeRuns (Memory.runs (m.keeps s.store)) ++ pixels).map
        (fun v => ⟨0, v.setWidth 64⟩) ∧ (∀ r ∈ t.responses.drop s.responses.length, r.code = 0)

/-- Rules R107 and R124, "with any number of `CHUNK_READ`, `REG_READ` and `NOP` commands interleaved": over any commands
without a `SOFT_RESET` that all succeed, dropping those three leaves the same final block, and the responses of the others
stand in the same order. With the statements above it carries the results of a pass and of a decode over to their
interleaved forms. -/
def Obligations.InterleavedReadsLeaveTheResult : Prop :=
  ∀ (commands : List Instr) (s t : State), s.err = false → s.inputs = issue commands → .softReset ∉ commands →
    runInputs s = .next t → t.err = false →
    ∃ u, runInputs { s with inputs := issue (commands.filter fun i => !i.isRead) } = .next u ∧ t.SameBlock u ∧
      u.responses.Sublist t.responses
end

