-- ==== Sys2Proof/Laws/Decode.lean ====
section
/-! SUPPORT. A command word as a number, its fields, and what the fields of a word are. -/

namespace Sys2Proof

/-- A command word as a number. -/
theorem commandWord_toNat (op b : Byte) (w : RunLength) :
    (commandWord op b w).toNat = w.toNat * 2 ^ 16 + b.toNat * 2 ^ 8 + op.toNat := by
  unfold commandWord
  rw [BitVec.toNat_setWidth, BitVec.toNat_append, BitVec.toNat_append,
    ← Nat.shiftLeft_add_eq_or_of_lt (by omega), ← Nat.shiftLeft_add_eq_or_of_lt (by omega)]
  simp only [Nat.shiftLeft_eq]
  omega

/-! ### The fields of a word as numbers -/

theorem opField_toNat (cmd : Word) : (opField cmd).toNat = cmd.toNat % 2 ^ 8 := by
  simp only [opField, BitVec.extractLsb'_toNat, Nat.shiftRight_zero]

theorem bField_toNat (cmd : Word) : (bField cmd).toNat = cmd.toNat / 2 ^ 8 % 2 ^ 8 := by
  simp only [bField, BitVec.extractLsb'_toNat, Nat.shiftRight_eq_div_pow]

theorem wField_toNat (cmd : Word) : (wField cmd).toNat = cmd.toNat / 2 ^ 16 % 2 ^ 32 := by
  simp only [wField, BitVec.extractLsb'_toNat, Nat.shiftRight_eq_div_pow]

theorem rsvField_toNat (cmd : Word) : (rsvField cmd).toNat = cmd.toNat / 2 ^ 48 % 2 ^ 16 := by
  simp only [rsvField, BitVec.extractLsb'_toNat, Nat.shiftRight_eq_div_pow]

/-! ### The fields of a command word -/

@[simp] theorem opField_commandWord (op b : Byte) (w : RunLength) : opField (commandWord op b w) = op := by
  apply BitVec.eq_of_toNat_eq
  rw [opField_toNat, commandWord_toNat]
  omega

@[simp] theorem bField_commandWord (op b : Byte) (w : RunLength) : bField (commandWord op b w) = b := by
  apply BitVec.eq_of_toNat_eq
  rw [bField_toNat, commandWord_toNat]
  omega

@[simp] theorem wField_commandWord (op b : Byte) (w : RunLength) : wField (commandWord op b w) = w := by
  apply BitVec.eq_of_toNat_eq
  rw [wField_toNat, commandWord_toNat]
  omega

@[simp] theorem rsvField_commandWord (op b : Byte) (w : RunLength) : rsvField (commandWord op b w) = 0 := by
  apply BitVec.eq_of_toNat_eq
  rw [rsvField_toNat, commandWord_toNat]
  simp only [BitVec.ofNat_eq_ofNat, BitVec.toNat_ofNat]
  omega

/-- A word whose reserved field is zero is the command word of its other three fields. -/
theorem commandWord_fields (cmd : Word) (h : rsvField cmd = 0) :
    commandWord (opField cmd) (bField cmd) (wField cmd) = cmd := by
  have h' := congrArg BitVec.toNat h
  rw [rsvField_toNat, show (0 : BitVec 16).toNat = 0 from rfl] at h'
  apply BitVec.eq_of_toNat_eq
  rw [commandWord_toNat, opField_toNat, bField_toNat, wField_toNat]
  omega

end Sys2Proof
end

