-- ==== Sys2Proof/Laws/State.lean ====
section
/-! SUPPORT. One lemma for each field of each named update of the state, true by rfl, so that no proof unfolds a record
update. -/

namespace Sys2Proof.Machine

variable (s : State)

@[simp] theorem State.receive_encActive (code : Code) (data : Word) :
    (s.receive code data).encActive = s.encActive := rfl
@[simp] theorem State.receive_runOpen (code : Code) (data : Word) :
    (s.receive code data).runOpen = s.runOpen := rfl
@[simp] theorem State.receive_append (code : Code) (data : Word) : (s.receive code data).append = s.append := rfl
@[simp] theorem State.receive_decActive (code : Code) (data : Word) :
    (s.receive code data).decActive = s.decActive := rfl
@[simp] theorem State.receive_decDone (code : Code) (data : Word) :
    (s.receive code data).decDone = s.decDone := rfl
@[simp] theorem State.receive_err (code : Code) (data : Word) : (s.receive code data).err = s.err := rfl
@[simp] theorem State.receive_errCause (code : Code) (data : Word) :
    (s.receive code data).errCause = s.errCause := rfl
@[simp] theorem State.receive_errCmd (code : Code) (data : Word) : (s.receive code data).errCmd = s.errCmd := rfl
@[simp] theorem State.receive_chunkCap (code : Code) (data : Word) :
    (s.receive code data).chunkCap = s.chunkCap := rfl
@[simp] theorem State.receive_store (code : Code) (data : Word) : (s.receive code data).store = s.store := rfl
@[simp] theorem State.receive_passBase (code : Code) (data : Word) :
    (s.receive code data).passBase = s.passBase := rfl
@[simp] theorem State.receive_pixIn (code : Code) (data : Word) : (s.receive code data).pixIn = s.pixIn := rfl
@[simp] theorem State.receive_runValue (code : Code) (data : Word) :
    (s.receive code data).runValue = s.runValue := rfl
@[simp] theorem State.receive_runLen (code : Code) (data : Word) : (s.receive code data).runLen = s.runLen := rfl
@[simp] theorem State.receive_decTotal (code : Code) (data : Word) :
    (s.receive code data).decTotal = s.decTotal := rfl
@[simp] theorem State.receive_decEmitted (code : Code) (data : Word) :
    (s.receive code data).decEmitted = s.decEmitted := rfl
@[simp] theorem State.receive_decChunk (code : Code) (data : Word) :
    (s.receive code data).decChunk = s.decChunk := rfl
@[simp] theorem State.receive_decOffset (code : Code) (data : Word) :
    (s.receive code data).decOffset = s.decOffset := rfl
@[simp] theorem State.receive_inputs (code : Code) (data : Word) : (s.receive code data).inputs = s.inputs := rfl
@[simp] theorem State.receive_responses (code : Code) (data : Word) :
    (s.receive code data).responses = s.responses ++ [⟨code.value, data⟩] := rfl
@[simp] theorem State.receive_freeCount (code : Code) (data : Word) :
    (s.receive code data).freeCount = s.freeCount := rfl

@[simp] theorem State.emitChunk_encActive (value : Byte) (run : RunLength) :
    (s.emitChunk value run).encActive = s.encActive := rfl
@[simp] theorem State.emitChunk_runOpen (value : Byte) (run : RunLength) :
    (s.emitChunk value run).runOpen = s.runOpen := rfl
@[simp] theorem State.emitChunk_append (value : Byte) (run : RunLength) :
    (s.emitChunk value run).append = s.append := rfl
@[simp] theorem State.emitChunk_decActive (value : Byte) (run : RunLength) :
    (s.emitChunk value run).decActive = s.decActive := rfl
@[simp] theorem State.emitChunk_decDone (value : Byte) (run : RunLength) :
    (s.emitChunk value run).decDone = s.decDone := rfl
@[simp] theorem State.emitChunk_err (value : Byte) (run : RunLength) : (s.emitChunk value run).err = s.err := rfl
@[simp] theorem State.emitChunk_errCause (value : Byte) (run : RunLength) :
    (s.emitChunk value run).errCause = s.errCause := rfl
@[simp] theorem State.emitChunk_errCmd (value : Byte) (run : RunLength) :
    (s.emitChunk value run).errCmd = s.errCmd := rfl
@[simp] theorem State.emitChunk_chunkCap (value : Byte) (run : RunLength) :
    (s.emitChunk value run).chunkCap = s.chunkCap := rfl
@[simp] theorem State.emitChunk_store (value : Byte) (run : RunLength) :
    (s.emitChunk value run).store = s.store ++ [⟨value, run⟩] := rfl
@[simp] theorem State.emitChunk_passBase (value : Byte) (run : RunLength) :
    (s.emitChunk value run).passBase = s.passBase := rfl
@[simp] theorem State.emitChunk_pixIn (value : Byte) (run : RunLength) :
    (s.emitChunk value run).pixIn = s.pixIn := rfl
@[simp] theorem State.emitChunk_runValue (value : Byte) (run : RunLength) :
    (s.emitChunk value run).runValue = s.runValue := rfl
@[simp] theorem State.emitChunk_runLen (value : Byte) (run : RunLength) :
    (s.emitChunk value run).runLen = s.runLen := rfl
@[simp] theorem State.emitChunk_decTotal (value : Byte) (run : RunLength) :
    (s.emitChunk value run).decTotal = s.decTotal := rfl
@[simp] theorem State.emitChunk_decEmitted (value : Byte) (run : RunLength) :
    (s.emitChunk value run).decEmitted = s.decEmitted := rfl
@[simp] theorem State.emitChunk_decChunk (value : Byte) (run : RunLength) :
    (s.emitChunk value run).decChunk = s.decChunk := rfl
@[simp] theorem State.emitChunk_decOffset (value : Byte) (run : RunLength) :
    (s.emitChunk value run).decOffset = s.decOffset := rfl
@[simp] theorem State.emitChunk_inputs (value : Byte) (run : RunLength) :
    (s.emitChunk value run).inputs = s.inputs := rfl
@[simp] theorem State.emitChunk_responses (value : Byte) (run : RunLength) :
    (s.emitChunk value run).responses = s.responses := rfl
@[simp] theorem State.emitChunk_freeCount (value : Byte) (run : RunLength) :
    (s.emitChunk value run).freeCount = s.freeCount := rfl

@[simp] theorem State.clearStore_encActive : s.clearStore.encActive = s.encActive := rfl
@[simp] theorem State.clearStore_runOpen : s.clearStore.runOpen = s.runOpen := rfl
@[simp] theorem State.clearStore_append : s.clearStore.append = s.append := rfl
@[simp] theorem State.clearStore_decActive : s.clearStore.decActive = s.decActive := rfl
@[simp] theorem State.clearStore_decDone : s.clearStore.decDone = s.decDone := rfl
@[simp] theorem State.clearStore_err : s.clearStore.err = s.err := rfl
@[simp] theorem State.clearStore_errCause : s.clearStore.errCause = s.errCause := rfl
@[simp] theorem State.clearStore_errCmd : s.clearStore.errCmd = s.errCmd := rfl
@[simp] theorem State.clearStore_chunkCap : s.clearStore.chunkCap = s.chunkCap := rfl
@[simp] theorem State.clearStore_store : s.clearStore.store = [] := rfl
@[simp] theorem State.clearStore_passBase : s.clearStore.passBase = s.passBase := rfl
@[simp] theorem State.clearStore_pixIn : s.clearStore.pixIn = s.pixIn := rfl
@[simp] theorem State.clearStore_runValue : s.clearStore.runValue = s.runValue := rfl
@[simp] theorem State.clearStore_runLen : s.clearStore.runLen = s.runLen := rfl
@[simp] theorem State.clearStore_decTotal : s.clearStore.decTotal = s.decTotal := rfl
@[simp] theorem State.clearStore_decEmitted : s.clearStore.decEmitted = s.decEmitted := rfl
@[simp] theorem State.clearStore_decChunk : s.clearStore.decChunk = s.decChunk := rfl
@[simp] theorem State.clearStore_decOffset : s.clearStore.decOffset = s.decOffset := rfl
@[simp] theorem State.clearStore_inputs : s.clearStore.inputs = s.inputs := rfl
@[simp] theorem State.clearStore_responses : s.clearStore.responses = s.responses := rfl
@[simp] theorem State.clearStore_freeCount : s.clearStore.freeCount = s.freeCount := rfl

@[simp] theorem State.closeRun_encActive : s.closeRun.encActive = s.encActive := rfl
@[simp] theorem State.closeRun_runOpen : s.closeRun.runOpen = false := rfl
@[simp] theorem State.closeRun_append : s.closeRun.append = s.append := rfl
@[simp] theorem State.closeRun_decActive : s.closeRun.decActive = s.decActive := rfl
@[simp] theorem State.closeRun_decDone : s.closeRun.decDone = s.decDone := rfl
@[simp] theorem State.closeRun_err : s.closeRun.err = s.err := rfl
@[simp] theorem State.closeRun_errCause : s.closeRun.errCause = s.errCause := rfl
@[simp] theorem State.closeRun_errCmd : s.closeRun.errCmd = s.errCmd := rfl
@[simp] theorem State.closeRun_chunkCap : s.closeRun.chunkCap = s.chunkCap := rfl
@[simp] theorem State.closeRun_store : s.closeRun.store = s.store := rfl
@[simp] theorem State.closeRun_passBase : s.closeRun.passBase = s.passBase := rfl
@[simp] theorem State.closeRun_pixIn : s.closeRun.pixIn = s.pixIn := rfl
@[simp] theorem State.closeRun_runValue : s.closeRun.runValue = 0 := rfl
@[simp] theorem State.closeRun_runLen : s.closeRun.runLen = 0 := rfl
@[simp] theorem State.closeRun_decTotal : s.closeRun.decTotal = s.decTotal := rfl
@[simp] theorem State.closeRun_decEmitted : s.closeRun.decEmitted = s.decEmitted := rfl
@[simp] theorem State.closeRun_decChunk : s.closeRun.decChunk = s.decChunk := rfl
@[simp] theorem State.closeRun_decOffset : s.closeRun.decOffset = s.decOffset := rfl
@[simp] theorem State.closeRun_inputs : s.closeRun.inputs = s.inputs := rfl
@[simp] theorem State.closeRun_responses : s.closeRun.responses = s.responses := rfl
@[simp] theorem State.closeRun_freeCount : s.closeRun.freeCount = s.freeCount := rfl

@[simp] theorem State.startRun_encActive (v : Byte) : (s.startRun v).encActive = s.encActive := rfl
@[simp] theorem State.startRun_runOpen (v : Byte) : (s.startRun v).runOpen = true := rfl
@[simp] theorem State.startRun_append (v : Byte) : (s.startRun v).append = s.append := rfl
@[simp] theorem State.startRun_decActive (v : Byte) : (s.startRun v).decActive = s.decActive := rfl
@[simp] theorem State.startRun_decDone (v : Byte) : (s.startRun v).decDone = s.decDone := rfl
@[simp] theorem State.startRun_err (v : Byte) : (s.startRun v).err = s.err := rfl
@[simp] theorem State.startRun_errCause (v : Byte) : (s.startRun v).errCause = s.errCause := rfl
@[simp] theorem State.startRun_errCmd (v : Byte) : (s.startRun v).errCmd = s.errCmd := rfl
@[simp] theorem State.startRun_chunkCap (v : Byte) : (s.startRun v).chunkCap = s.chunkCap := rfl
@[simp] theorem State.startRun_store (v : Byte) : (s.startRun v).store = s.store := rfl
@[simp] theorem State.startRun_passBase (v : Byte) : (s.startRun v).passBase = s.passBase := rfl
@[simp] theorem State.startRun_pixIn (v : Byte) : (s.startRun v).pixIn = s.pixIn + 1 := rfl
@[simp] theorem State.startRun_runValue (v : Byte) : (s.startRun v).runValue = v := rfl
@[simp] theorem State.startRun_runLen (v : Byte) : (s.startRun v).runLen = 1 := rfl
@[simp] theorem State.startRun_decTotal (v : Byte) : (s.startRun v).decTotal = s.decTotal := rfl
@[simp] theorem State.startRun_decEmitted (v : Byte) : (s.startRun v).decEmitted = s.decEmitted := rfl
@[simp] theorem State.startRun_decChunk (v : Byte) : (s.startRun v).decChunk = s.decChunk := rfl
@[simp] theorem State.startRun_decOffset (v : Byte) : (s.startRun v).decOffset = s.decOffset := rfl
@[simp] theorem State.startRun_inputs (v : Byte) : (s.startRun v).inputs = s.inputs := rfl
@[simp] theorem State.startRun_responses (v : Byte) : (s.startRun v).responses = s.responses := rfl
@[simp] theorem State.startRun_freeCount (v : Byte) : (s.startRun v).freeCount = s.freeCount := rfl

@[simp] theorem State.extendRun_encActive : s.extendRun.encActive = s.encActive := rfl
@[simp] theorem State.extendRun_runOpen : s.extendRun.runOpen = s.runOpen := rfl
@[simp] theorem State.extendRun_append : s.extendRun.append = s.append := rfl
@[simp] theorem State.extendRun_decActive : s.extendRun.decActive = s.decActive := rfl
@[simp] theorem State.extendRun_decDone : s.extendRun.decDone = s.decDone := rfl
@[simp] theorem State.extendRun_err : s.extendRun.err = s.err := rfl
@[simp] theorem State.extendRun_errCause : s.extendRun.errCause = s.errCause := rfl
@[simp] theorem State.extendRun_errCmd : s.extendRun.errCmd = s.errCmd := rfl
@[simp] theorem State.extendRun_chunkCap : s.extendRun.chunkCap = s.chunkCap := rfl
@[simp] theorem State.extendRun_store : s.extendRun.store = s.store := rfl
@[simp] theorem State.extendRun_passBase : s.extendRun.passBase = s.passBase := rfl
@[simp] theorem State.extendRun_pixIn : s.extendRun.pixIn = s.pixIn + 1 := rfl
@[simp] theorem State.extendRun_runValue : s.extendRun.runValue = s.runValue := rfl
@[simp] theorem State.extendRun_runLen : s.extendRun.runLen = s.runLen + 1 := rfl
@[simp] theorem State.extendRun_decTotal : s.extendRun.decTotal = s.decTotal := rfl
@[simp] theorem State.extendRun_decEmitted : s.extendRun.decEmitted = s.decEmitted := rfl
@[simp] theorem State.extendRun_decChunk : s.extendRun.decChunk = s.decChunk := rfl
@[simp] theorem State.extendRun_decOffset : s.extendRun.decOffset = s.decOffset := rfl
@[simp] theorem State.extendRun_inputs : s.extendRun.inputs = s.inputs := rfl
@[simp] theorem State.extendRun_responses : s.extendRun.responses = s.responses := rfl
@[simp] theorem State.extendRun_freeCount : s.extendRun.freeCount = s.freeCount := rfl

@[simp] theorem State.enterFault_encActive (c : Cause) (cmd : Word) :
    (s.enterFault c cmd).encActive = s.encActive := rfl
@[simp] theorem State.enterFault_runOpen (c : Cause) (cmd : Word) : (s.enterFault c cmd).runOpen = s.runOpen := rfl
@[simp] theorem State.enterFault_append (c : Cause) (cmd : Word) : (s.enterFault c cmd).append = s.append := rfl
@[simp] theorem State.enterFault_decActive (c : Cause) (cmd : Word) :
    (s.enterFault c cmd).decActive = s.decActive := rfl
@[simp] theorem State.enterFault_decDone (c : Cause) (cmd : Word) : (s.enterFault c cmd).decDone = s.decDone := rfl
@[simp] theorem State.enterFault_err (c : Cause) (cmd : Word) : (s.enterFault c cmd).err = true := rfl
@[simp] theorem State.enterFault_errCause (c : Cause) (cmd : Word) : (s.enterFault c cmd).errCause = c.value := rfl
@[simp] theorem State.enterFault_errCmd (c : Cause) (cmd : Word) : (s.enterFault c cmd).errCmd = cmd := rfl
@[simp] theorem State.enterFault_chunkCap (c : Cause) (cmd : Word) :
    (s.enterFault c cmd).chunkCap = s.chunkCap := rfl
@[simp] theorem State.enterFault_store (c : Cause) (cmd : Word) : (s.enterFault c cmd).store = s.store := rfl
@[simp] theorem State.enterFault_passBase (c : Cause) (cmd : Word) :
    (s.enterFault c cmd).passBase = s.passBase := rfl
@[simp] theorem State.enterFault_pixIn (c : Cause) (cmd : Word) : (s.enterFault c cmd).pixIn = s.pixIn := rfl
@[simp] theorem State.enterFault_runValue (c : Cause) (cmd : Word) :
    (s.enterFault c cmd).runValue = s.runValue := rfl
@[simp] theorem State.enterFault_runLen (c : Cause) (cmd : Word) : (s.enterFault c cmd).runLen = s.runLen := rfl
@[simp] theorem State.enterFault_decTotal (c : Cause) (cmd : Word) :
    (s.enterFault c cmd).decTotal = s.decTotal := rfl
@[simp] theorem State.enterFault_decEmitted (c : Cause) (cmd : Word) :
    (s.enterFault c cmd).decEmitted = s.decEmitted := rfl
@[simp] theorem State.enterFault_decChunk (c : Cause) (cmd : Word) :
    (s.enterFault c cmd).decChunk = s.decChunk := rfl
@[simp] theorem State.enterFault_decOffset (c : Cause) (cmd : Word) :
    (s.enterFault c cmd).decOffset = s.decOffset := rfl
@[simp] theorem State.enterFault_inputs (c : Cause) (cmd : Word) : (s.enterFault c cmd).inputs = s.inputs := rfl
@[simp] theorem State.enterFault_responses (c : Cause) (cmd : Word) :
    (s.enterFault c cmd).responses = s.responses ++ [⟨c.value, 0⟩] := rfl
@[simp] theorem State.enterFault_freeCount (c : Cause) (cmd : Word) :
    (s.enterFault c cmd).freeCount = s.freeCount := rfl

@[simp] theorem State.advanceCursor_encActive (len : RunLength) :
    (s.advanceCursor len).encActive = s.encActive := rfl
@[simp] theorem State.advanceCursor_runOpen (len : RunLength) : (s.advanceCursor len).runOpen = s.runOpen := rfl
@[simp] theorem State.advanceCursor_append (len : RunLength) : (s.advanceCursor len).append = s.append := rfl
@[simp] theorem State.advanceCursor_decActive (len : RunLength) :
    (s.advanceCursor len).decActive = if s.decEmitted + 1 = s.decTotal then false else s.decActive := rfl
@[simp] theorem State.advanceCursor_decDone (len : RunLength) :
    (s.advanceCursor len).decDone = if s.decEmitted + 1 = s.decTotal then true else s.decDone := rfl
@[simp] theorem State.advanceCursor_err (len : RunLength) : (s.advanceCursor len).err = s.err := rfl
@[simp] theorem State.advanceCursor_errCause (len : RunLength) : (s.advanceCursor len).errCause = s.errCause := rfl
@[simp] theorem State.advanceCursor_errCmd (len : RunLength) : (s.advanceCursor len).errCmd = s.errCmd := rfl
@[simp] theorem State.advanceCursor_chunkCap (len : RunLength) : (s.advanceCursor len).chunkCap = s.chunkCap := rfl
@[simp] theorem State.advanceCursor_store (len : RunLength) : (s.advanceCursor len).store = s.store := rfl
@[simp] theorem State.advanceCursor_passBase (len : RunLength) : (s.advanceCursor len).passBase = s.passBase := rfl
@[simp] theorem State.advanceCursor_pixIn (len : RunLength) : (s.advanceCursor len).pixIn = s.pixIn := rfl
@[simp] theorem State.advanceCursor_runValue (len : RunLength) : (s.advanceCursor len).runValue = s.runValue := rfl
@[simp] theorem State.advanceCursor_runLen (len : RunLength) : (s.advanceCursor len).runLen = s.runLen := rfl
@[simp] theorem State.advanceCursor_decTotal (len : RunLength) : (s.advanceCursor len).decTotal = s.decTotal := rfl
@[simp] theorem State.advanceCursor_decEmitted (len : RunLength) :
    (s.advanceCursor len).decEmitted = s.decEmitted + 1 := rfl
@[simp] theorem State.advanceCursor_decChunk (len : RunLength) :
    (s.advanceCursor len).decChunk = if s.decOffset.toNat + 1 = len.toNat then s.decChunk + 1 else s.decChunk := rfl
@[simp] theorem State.advanceCursor_decOffset (len : RunLength) :
    (s.advanceCursor len).decOffset = if s.decOffset.toNat + 1 = len.toNat then 0 else s.decOffset + 1 := rfl
@[simp] theorem State.advanceCursor_inputs (len : RunLength) : (s.advanceCursor len).inputs = s.inputs := rfl
@[simp] theorem State.advanceCursor_responses (len : RunLength) :
    (s.advanceCursor len).responses = s.responses := rfl
@[simp] theorem State.advanceCursor_freeCount (len : RunLength) :
    (s.advanceCursor len).freeCount = s.freeCount := rfl

@[simp] theorem State.applyReset_encActive : s.applyReset.encActive = false := rfl
@[simp] theorem State.applyReset_runOpen : s.applyReset.runOpen = false := rfl
@[simp] theorem State.applyReset_append : s.applyReset.append = false := rfl
@[simp] theorem State.applyReset_decActive : s.applyReset.decActive = false := rfl
@[simp] theorem State.applyReset_decDone : s.applyReset.decDone = false := rfl
@[simp] theorem State.applyReset_err : s.applyReset.err = false := rfl
@[simp] theorem State.applyReset_errCause : s.applyReset.errCause = 0 := rfl
@[simp] theorem State.applyReset_errCmd : s.applyReset.errCmd = 0 := rfl
@[simp] theorem State.applyReset_chunkCap : s.applyReset.chunkCap = s.chunkCap := rfl
@[simp] theorem State.applyReset_store : s.applyReset.store = [] := rfl
@[simp] theorem State.applyReset_passBase : s.applyReset.passBase = 0 := rfl
@[simp] theorem State.applyReset_pixIn : s.applyReset.pixIn = 0 := rfl
@[simp] theorem State.applyReset_runValue : s.applyReset.runValue = 0 := rfl
@[simp] theorem State.applyReset_runLen : s.applyReset.runLen = 0 := rfl
@[simp] theorem State.applyReset_decTotal : s.applyReset.decTotal = 0 := rfl
@[simp] theorem State.applyReset_decEmitted : s.applyReset.decEmitted = 0 := rfl
@[simp] theorem State.applyReset_decChunk : s.applyReset.decChunk = 0 := rfl
@[simp] theorem State.applyReset_decOffset : s.applyReset.decOffset = 0 := rfl
@[simp] theorem State.applyReset_inputs : s.applyReset.inputs = s.inputs := rfl
@[simp] theorem State.applyReset_responses : s.applyReset.responses = s.responses := rfl
@[simp] theorem State.applyReset_freeCount : s.applyReset.freeCount = s.freeCount := rfl

@[simp] theorem State.answers_encActive (code : Byte) (data : Word) :
    (s.answers code data).encActive = s.encActive := rfl
@[simp] theorem State.answers_runOpen (code : Byte) (data : Word) :
    (s.answers code data).runOpen = s.runOpen := rfl
@[simp] theorem State.answers_append (code : Byte) (data : Word) : (s.answers code data).append = s.append := rfl
@[simp] theorem State.answers_decActive (code : Byte) (data : Word) :
    (s.answers code data).decActive = s.decActive := rfl
@[simp] theorem State.answers_decDone (code : Byte) (data : Word) :
    (s.answers code data).decDone = s.decDone := rfl
@[simp] theorem State.answers_err (code : Byte) (data : Word) : (s.answers code data).err = s.err := rfl
@[simp] theorem State.answers_errCause (code : Byte) (data : Word) :
    (s.answers code data).errCause = s.errCause := rfl
@[simp] theorem State.answers_errCmd (code : Byte) (data : Word) : (s.answers code data).errCmd = s.errCmd := rfl
@[simp] theorem State.answers_chunkCap (code : Byte) (data : Word) :
    (s.answers code data).chunkCap = s.chunkCap := rfl
@[simp] theorem State.answers_store (code : Byte) (data : Word) : (s.answers code data).store = s.store := rfl
@[simp] theorem State.answers_passBase (code : Byte) (data : Word) :
    (s.answers code data).passBase = s.passBase := rfl
@[simp] theorem State.answers_pixIn (code : Byte) (data : Word) : (s.answers code data).pixIn = s.pixIn := rfl
@[simp] theorem State.answers_runValue (code : Byte) (data : Word) :
    (s.answers code data).runValue = s.runValue := rfl
@[simp] theorem State.answers_runLen (code : Byte) (data : Word) : (s.answers code data).runLen = s.runLen := rfl
@[simp] theorem State.answers_decTotal (code : Byte) (data : Word) :
    (s.answers code data).decTotal = s.decTotal := rfl
@[simp] theorem State.answers_decEmitted (code : Byte) (data : Word) :
    (s.answers code data).decEmitted = s.decEmitted := rfl
@[simp] theorem State.answers_decChunk (code : Byte) (data : Word) :
    (s.answers code data).decChunk = s.decChunk := rfl
@[simp] theorem State.answers_decOffset (code : Byte) (data : Word) :
    (s.answers code data).decOffset = s.decOffset := rfl
@[simp] theorem State.answers_inputs (code : Byte) (data : Word) : (s.answers code data).inputs = s.inputs := rfl
@[simp] theorem State.answers_responses (code : Byte) (data : Word) :
    (s.answers code data).responses = s.responses ++ [⟨code, data⟩] := rfl
@[simp] theorem State.answers_freeCount (code : Byte) (data : Word) :
    (s.answers code data).freeCount = s.freeCount := rfl

@[simp] theorem State.faulted_encActive (code : Byte) (cmd : Word) :
    (s.faulted code cmd).encActive = s.encActive := rfl
@[simp] theorem State.faulted_runOpen (code : Byte) (cmd : Word) : (s.faulted code cmd).runOpen = s.runOpen := rfl
@[simp] theorem State.faulted_append (code : Byte) (cmd : Word) : (s.faulted code cmd).append = s.append := rfl
@[simp] theorem State.faulted_decActive (code : Byte) (cmd : Word) :
    (s.faulted code cmd).decActive = s.decActive := rfl
@[simp] theorem State.faulted_decDone (code : Byte) (cmd : Word) : (s.faulted code cmd).decDone = s.decDone := rfl
@[simp] theorem State.faulted_err (code : Byte) (cmd : Word) : (s.faulted code cmd).err = true := rfl
@[simp] theorem State.faulted_errCause (code : Byte) (cmd : Word) : (s.faulted code cmd).errCause = code := rfl
@[simp] theorem State.faulted_errCmd (code : Byte) (cmd : Word) : (s.faulted code cmd).errCmd = cmd := rfl
@[simp] theorem State.faulted_chunkCap (code : Byte) (cmd : Word) :
    (s.faulted code cmd).chunkCap = s.chunkCap := rfl
@[simp] theorem State.faulted_store (code : Byte) (cmd : Word) : (s.faulted code cmd).store = s.store := rfl
@[simp] theorem State.faulted_passBase (code : Byte) (cmd : Word) :
    (s.faulted code cmd).passBase = s.passBase := rfl
@[simp] theorem State.faulted_pixIn (code : Byte) (cmd : Word) : (s.faulted code cmd).pixIn = s.pixIn := rfl
@[simp] theorem State.faulted_runValue (code : Byte) (cmd : Word) :
    (s.faulted code cmd).runValue = s.runValue := rfl
@[simp] theorem State.faulted_runLen (code : Byte) (cmd : Word) : (s.faulted code cmd).runLen = s.runLen := rfl
@[simp] theorem State.faulted_decTotal (code : Byte) (cmd : Word) :
    (s.faulted code cmd).decTotal = s.decTotal := rfl
@[simp] theorem State.faulted_decEmitted (code : Byte) (cmd : Word) :
    (s.faulted code cmd).decEmitted = s.decEmitted := rfl
@[simp] theorem State.faulted_decChunk (code : Byte) (cmd : Word) :
    (s.faulted code cmd).decChunk = s.decChunk := rfl
@[simp] theorem State.faulted_decOffset (code : Byte) (cmd : Word) :
    (s.faulted code cmd).decOffset = s.decOffset := rfl
@[simp] theorem State.faulted_inputs (code : Byte) (cmd : Word) : (s.faulted code cmd).inputs = s.inputs := rfl
@[simp] theorem State.faulted_responses (code : Byte) (cmd : Word) :
    (s.faulted code cmd).responses = s.responses ++ [⟨code, 0⟩] := rfl
@[simp] theorem State.faulted_freeCount (code : Byte) (cmd : Word) :
    (s.faulted code cmd).freeCount = s.freeCount := rfl

end Sys2Proof.Machine
end

