-- ==== Sys2Proof/Laws/Ops.lean ====
section
/-! SUPPORT. What the shared operations can do, once each: the chunk store and its form, the registers by number, the
responses, fault entry and the filter. -/

namespace Sys2Proof.Machine

/-! ### The chunk store keeps its form -/

theorem Memory.wf_iff (cap : Nat) (m : Memory) :
    Memory.wf cap m = true ↔ m.length ≤ cap ∧ ∀ c ∈ m, c.run ≠ 0 := by
  simp [Memory.wf]

theorem Memory.wf_nil (cap : Nat) : Memory.wf cap [] = true := by
  simp [Memory.wf]

/-- The one write keeps the form when there is room and the run is positive, which its callers check. -/
theorem Memory.wf_appendEntry {cap : Nat} {m : Memory} {c : Chunk} (h : Memory.wf cap m = true)
    (room : m.length < cap) (positive : c.run ≠ 0) : Memory.wf cap (Memory.appendEntry m c) = true := by
  rw [Memory.wf_iff] at h ⊢
  refine ⟨by simp [Memory.appendEntry]; omega, fun d hd => ?_⟩
  rcases List.mem_append.mp hd with hd | hd
  · exact h.2 d hd
  · rw [List.mem_singleton.mp hd]
    exact positive

theorem State.reset_store_wf : Memory.wf State.reset.chunkCap State.reset.store = true := Memory.wf_nil _

theorem State.applyReset_store_wf (s : State) : Memory.wf s.applyReset.chunkCap s.applyReset.store = true :=
  Memory.wf_nil _

theorem State.clearStore_wf (s : State) : Memory.wf s.clearStore.chunkCap s.clearStore.store = true := Memory.wf_nil _

theorem State.emitChunk_wf {s : State} {value : Byte} {run : RunLength}
    (h : Memory.wf s.chunkCap s.store = true) (room : s.chunkCount < s.chunkCap) (positive : run ≠ 0) :
    Memory.wf (s.emitChunk value run).chunkCap (s.emitChunk value run).store = true :=
  Memory.wf_appendEntry h room positive

/-! ### Reading the store -/

/-- An entry has a value exactly below the count (rule R54). -/
theorem Memory.readEntry_isSome (m : Memory) (i : Nat) : (Memory.readEntry m i).isSome = true ↔ i < m.length := by
  simp [Memory.readEntry]

theorem Memory.readEntry_eq_none (m : Memory) (i : Nat) : Memory.readEntry m i = none ↔ m.length ≤ i := by
  simp [Memory.readEntry]

theorem Memory.readEntry_mem {m : Memory} {i : Nat} {c : Chunk} (h : Memory.readEntry m i = some c) : c ∈ m :=
  List.mem_of_getElem? h

/-- A write leaves every entry below the count alone (rule R52). -/
theorem Memory.readEntry_appendEntry_of_lt {m : Memory} {i : Nat} (c : Chunk) (h : i < m.length) :
    Memory.readEntry (Memory.appendEntry m c) i = Memory.readEntry m i := by
  simp [Memory.readEntry, Memory.appendEntry, List.getElem?_append_left h]

/-- What was written is what is read. -/
theorem Memory.readEntry_appendEntry_self (m : Memory) (c : Chunk) :
    Memory.readEntry (Memory.appendEntry m c) m.length = some c := by
  simp [Memory.readEntry, Memory.appendEntry]

@[simp] theorem Memory.pixels_nil : Memory.pixels [] = 0 := rfl

@[simp] theorem Memory.pixels_cons (c : Chunk) (m : Memory) :
    Memory.pixels (c :: m) = c.run.toNat + Memory.pixels m := by
  simp [Memory.pixels]

@[simp] theorem Memory.pixels_append (m n : Memory) : Memory.pixels (m ++ n) = Memory.pixels m + Memory.pixels n := by
  simp [Memory.pixels]

/-- The bound of rule R34: no sum of runs exceeds `CHUNK_COUNT * (2^32 - 1)`. -/
theorem Memory.pixels_le (m : Memory) : Memory.pixels m ≤ m.length * (2 ^ 32 - 1) := by
  induction m with
  | nil => simp
  | cons c m ih =>
    have := c.run.isLt
    simp only [Memory.pixels_cons, List.length_cons]
    omega

/-! ### Registers by number (rule R43) -/

theorem regOfNumber_isSome (r : Byte) : (regOfNumber r).isSome = true ↔ r.toNat ≤ 13 := by
  simp only [regOfNumber, allRegs, List.getElem?_eq_some_iff, Option.isSome_iff_exists, List.length_cons, List.length_nil]
  constructor
  · rintro ⟨_, h, _⟩
    omega
  · intro h
    exact ⟨_, by omega, rfl⟩

theorem regOfNumber_eq_none {r : Byte} (h : 14 ≤ r.toNat) : regOfNumber r = none := by
  simp [regOfNumber, allRegs]
  omega

/-! ### Responses, fault entry and the filter -/

theorem State.receive_ok (s : State) (d : Word) : s.receive .ok d = s.answers 0 d := rfl

theorem State.receive_blocked (s : State) : s.receive .blocked 0 = s.answers 0x08 0 := rfl

theorem State.enterFault_eq_faulted (s : State) (c : Cause) (cmd : Word) : s.enterFault c cmd = s.faulted c.value cmd :=
  rfl

theorem respond_eq (d : Word) (s : State) : respond d s = .next (s.answers 0 d) := rfl

theorem raise_eq (c : Cause) (cmd : Word) (s : State) : raise c cmd s = .next (s.faulted c.value cmd) := rfl

/-- Outside the error state the filter lets a command through. -/
theorem filtered_of_no_error {s : State} (run : Result) (h : s.err = false) : filtered s run = run := by
  simp [filtered, h]

/-- In the error state the filter answers `BLOCKED` (rule R162). -/
theorem filtered_of_error {s : State} (run : Result) (h : s.err = true) : filtered s run = .next (s.answers 0x08 0) := by
  simp only [filtered, h, if_true]
  rfl

/-- All the filter can do when it answers a next state. -/
theorem filtered_next {s t : State} {run : Result} (h : filtered s run = .next t) :
    (s.err = true ∧ t = s.answers 0x08 0) ∨ (s.err = false ∧ run = .next t) := by
  cases he : s.err with
  | true =>
    rw [filtered_of_error run he] at h
    exact .inl ⟨rfl, by injection h with h; exact h.symm⟩
  | false =>
    rw [filtered_of_no_error run he] at h
    exact .inr ⟨rfl, h⟩

theorem Cause.value_ne_zero (c : Cause) : c.value ≠ 0 := by
  cases c <;> decide

theorem Cause.value_le (c : Cause) : c.value.toNat ≤ 7 := by
  cases c <;> decide

end Sys2Proof.Machine
end

