-- ==== Sys2Proof/Laws/PerInstr.lean ====
section
/-! SUPPORT. Statements for all commands, made one lemma for each constructor. -/

namespace Sys2Proof.Laws.EncodeFields

/-- The word of a command has its opcode, its operands and nothing else in its fields (spec/30_encoding.md rules R70,
R74). -/
def Statement (i : Instr) : Prop :=
  opField (encode i) = opcodeByte i ∧ bField (encode i) = byteOperand i ∧ wField (encode i) = wordOperand i ∧
    rsvField (encode i) = 0

/-- The fact behind every case: the encoder fills the three fields and leaves the reserved one zero. -/
theorem statement_of_commandWord (i : Instr) : Statement i := by
  simp [Statement, encode]

theorem nop : Statement .nop := statement_of_commandWord _
theorem encBegin (m : EncMode) : Statement (.encBegin m) := statement_of_commandWord _
theorem encPixel (v : Byte) : Statement (.encPixel v) := statement_of_commandWord _
theorem encEnd : Statement .encEnd := statement_of_commandWord _
theorem decBegin : Statement .decBegin := statement_of_commandWord _
theorem decPixel : Statement .decPixel := statement_of_commandWord _
theorem chunkLoad (v : Byte) (n : RunLength) : Statement (.chunkLoad v n) := statement_of_commandWord _
theorem chunkRead (i : RunLength) : Statement (.chunkRead i) := statement_of_commandWord _
theorem chunkClear : Statement .chunkClear := statement_of_commandWord _
theorem regRead (r : Byte) : Statement (.regRead r) := statement_of_commandWord _
theorem softReset : Statement .softReset := statement_of_commandWord _

end Sys2Proof.Laws.EncodeFields
end

