-- ==== Sys2Proof/Laws/Step.lean ====
section
/-! SUPPORT. What a command can do, one inversion lemma for each meaning, and what a step is. A meaning that answers next
does one of the listed things; the error-state filter is the first case of each. -/

namespace Sys2Proof.Machine

variable {s t : State}

theorem execEncBegin_next {m : EncMode} (h : exec (.encBegin m) s = .next t) :
    (s.err = true ∧ t = s.answers 0x08 0) ∨ s.err = false ∧
    ((s.decActive = true ∧ t = s.faulted 0x03 (encode (.encBegin m))) ∨
     (s.decActive = false ∧ s.encActive = true ∧ t = s.faulted 0x02 (encode (.encBegin m))) ∨
     (s.decActive = false ∧ s.encActive = false ∧ ∃ kept, kept = m.keeps s.store ∧
      t = State.answers { s with
        store := kept, passBase := BitVec.ofNat 64 kept.length, append := decide (m = .append), encActive := true,
        runOpen := false, runValue := 0, runLen := 0, pixIn := 0 } 0 (BitVec.ofNat 64 kept.length))) := by
  rcases filtered_next h with h | ⟨he, h⟩
  · exact .inl h
  refine .inr ⟨he, ?_⟩
  split at h
  · next hd => injection h with h; exact .inl ⟨hd, h.symm⟩
  · next hd =>
    have hd : s.decActive = false := by simpa using hd
    split at h
    · next ha => injection h with h; exact .inr (.inl ⟨hd, ha, h.symm⟩)
    · next ha =>
      have ha : s.encActive = false := by simpa using ha
      injection h with h
      refine .inr (.inr ⟨hd, ha, _, rfl, ?_⟩)
      cases m <;> exact h.symm

theorem execEncPixel_next {v : Byte} (h : exec (.encPixel v) s = .next t) :
    (s.err = true ∧ t = s.answers 0x08 0) ∨ s.err = false ∧
    ((s.encActive = false ∧ t = s.faulted 0x02 (encode (.encPixel v))) ∨
     (s.encActive = true ∧ s.runOpen = false ∧ t = (s.startRun v).answers 0 0) ∨
     (s.encActive = true ∧ s.runOpen = true ∧ v = s.runValue ∧ s.runLen = 0xFFFFFFFF ∧
       t = s.faulted 0x04 (encode (.encPixel v))) ∨
     (s.encActive = true ∧ s.runOpen = true ∧ v = s.runValue ∧ s.runLen ≠ 0xFFFFFFFF ∧ t = s.extendRun.answers 0 0) ∨
     (s.encActive = true ∧ s.runOpen = true ∧ v ≠ s.runValue ∧ s.chunkCount = s.chunkCap ∧
       t = s.faulted 0x05 (encode (.encPixel v))) ∨
     (s.encActive = true ∧ s.runOpen = true ∧ v ≠ s.runValue ∧ s.chunkCount ≠ s.chunkCap ∧
       t = ((s.emitChunk s.runValue s.runLen).startRun v).answers 0 1)) := by
  rcases filtered_next h with h | ⟨he, h⟩
  · exact .inl h
  refine .inr ⟨he, ?_⟩
  split at h
  · next ha => injection h with h; exact .inl ⟨ha, h.symm⟩
  next ha =>
  have ha : s.encActive = true := by simpa using ha
  split at h
  · next hr => injection h with h; exact .inr (.inl ⟨ha, hr, h.symm⟩)
  next hr =>
  have hr : s.runOpen = true := by simpa using hr
  split at h
  · next hb =>
    have hb : v = s.runValue := by simpa [boundary, hr] using hb
    split at h
    · next hl => injection h with h; exact .inr (.inr (.inl ⟨ha, hr, hb, hl, h.symm⟩))
    · next hl => injection h with h; exact .inr (.inr (.inr (.inl ⟨ha, hr, hb, hl, h.symm⟩)))
  · next hb =>
    have hb : v ≠ s.runValue := by simpa [boundary, hr] using hb
    split at h
    · next hc => injection h with h; exact .inr (.inr (.inr (.inr (.inl ⟨ha, hr, hb, hc, h.symm⟩))))
    · next hc => injection h with h; exact .inr (.inr (.inr (.inr (.inr ⟨ha, hr, hb, hc, h.symm⟩))))

theorem execEncEnd_next (h : exec .encEnd s = .next t) :
    (s.err = true ∧ t = s.answers 0x08 0) ∨ s.err = false ∧
    ((s.encActive = false ∧ t = s.faulted 0x02 (encode .encEnd)) ∨
     (s.encActive = true ∧ s.runOpen = true ∧ s.chunkCount = s.chunkCap ∧ t = s.faulted 0x05 (encode .encEnd)) ∨
     (s.encActive = true ∧ s.runOpen = true ∧ s.chunkCount ≠ s.chunkCap ∧
       t = State.answers { (s.emitChunk s.runValue s.runLen).closeRun with encActive := false } 0
         (BitVec.ofNat 64 (s.chunkCount + 1) - s.passBase)) ∨
     (s.encActive = true ∧ s.runOpen = false ∧
       t = State.answers { s.closeRun with encActive := false } 0 (BitVec.ofNat 64 s.chunkCount - s.passBase))) := by
  rcases filtered_next h with h | ⟨he, h⟩
  · exact .inl h
  refine .inr ⟨he, ?_⟩
  split at h
  · next ha => injection h with h; exact .inl ⟨ha, h.symm⟩
  next ha =>
  have ha : s.encActive = true := by simpa using ha
  split at h
  · next hc => injection h with h; exact .inr (.inl ⟨ha, hc.1, hc.2, h.symm⟩)
  next hc =>
  cases hr : s.runOpen with
  | true =>
    simp only [hr, if_true] at h
    injection h with h
    refine .inr (.inr (.inl ⟨ha, rfl, fun hf => hc ⟨hr, hf⟩, ?_⟩))
    simpa [State.receive_ok, State.chunkCount, Memory.appendEntry] using h.symm
  | false =>
    simp only [hr] at h
    injection h with h
    exact .inr (.inr (.inr ⟨ha, rfl, h.symm⟩))

theorem execDecBegin_next (h : exec .decBegin s = .next t) :
    (s.err = true ∧ t = s.answers 0x08 0) ∨ s.err = false ∧
    ((s.encActive = true ∧ t = s.faulted 0x03 (encode .decBegin)) ∨
     (s.encActive = false ∧ s.decActive = true ∧ t = s.faulted 0x02 (encode .decBegin)) ∨
     (s.encActive = false ∧ s.decActive = false ∧ ∃ total, total = BitVec.ofNat 64 (Memory.pixels s.store) ∧
      t = State.answers { s with
        decTotal := total, decEmitted := 0, decChunk := 0, decOffset := 0, decActive := decide (total ≠ 0),
        decDone := decide (total = 0) } 0 total)) := by
  rcases filtered_next h with h | ⟨he, h⟩
  · exact .inl h
  refine .inr ⟨he, ?_⟩
  split at h
  · next ha => injection h with h; exact .inl ⟨ha, h.symm⟩
  next ha =>
  have ha : s.encActive = false := by simpa using ha
  split at h
  · next hd => injection h with h; exact .inr (.inl ⟨ha, hd, h.symm⟩)
  · next hd =>
    injection h with h
    exact .inr (.inr ⟨ha, by simpa using hd, _, rfl, h.symm⟩)

theorem execDecPixel_next (h : exec .decPixel s = .next t) :
    (s.err = true ∧ t = s.answers 0x08 0) ∨ s.err = false ∧
    ((s.decActive = false ∧ t = s.faulted 0x02 (encode .decPixel)) ∨
     (s.decActive = true ∧ ∃ c, Memory.readEntry s.store s.decChunk.toNat = some c ∧
       t = (s.advanceCursor c.run).answers 0 (c.value.setWidth 64))) := by
  rcases filtered_next h with h | ⟨he, h⟩
  · exact .inl h
  refine .inr ⟨he, ?_⟩
  split at h
  · next hd => injection h with h; exact .inl ⟨hd, h.symm⟩
  next hd =>
  split at h
  · cases h
  · next c hc => injection h with h; exact .inr ⟨by simpa using hd, c, hc, h.symm⟩

theorem execChunkLoad_next {v : Byte} {n : RunLength} (h : exec (.chunkLoad v n) s = .next t) :
    (s.err = true ∧ t = s.answers 0x08 0) ∨ s.err = false ∧
    (((s.encActive = true ∨ s.decActive = true) ∧ t = s.faulted 0x03 (encode (.chunkLoad v n))) ∨
     (s.encActive = false ∧ s.decActive = false ∧
      ((n = 0 ∧ t = s.faulted 0x06 (encode (.chunkLoad v n))) ∨
       (n ≠ 0 ∧ s.chunkCount = s.chunkCap ∧ t = s.faulted 0x05 (encode (.chunkLoad v n))) ∨
       (n ≠ 0 ∧ s.chunkCount ≠ s.chunkCap ∧
         t = (s.emitChunk v n).answers 0 (BitVec.ofNat 64 (s.chunkCount + 1)))))) := by
  rcases filtered_next h with h | ⟨he, h⟩
  · exact .inl h
  refine .inr ⟨he, ?_⟩
  split at h
  · next ho => injection h with h; exact .inl ⟨by simpa using ho, h.symm⟩
  next ho =>
  have ho : s.encActive = false ∧ s.decActive = false := by simpa using ho
  refine .inr ⟨ho.1, ho.2, ?_⟩
  split at h
  · next hn => injection h with h; exact .inl ⟨hn, h.symm⟩
  next hn =>
  split at h
  · next hc => injection h with h; exact .inr (.inl ⟨hn, hc, h.symm⟩)
  · next hc =>
    injection h with h
    refine .inr (.inr ⟨hn, hc, ?_⟩)
    simpa [State.receive_ok, State.chunkCount, Memory.appendEntry] using h.symm

theorem execChunkRead_next {i : RunLength} (h : exec (.chunkRead i) s = .next t) :
    (s.err = true ∧ t = s.answers 0x08 0) ∨ s.err = false ∧
    ((s.chunkCount ≤ i.toNat ∧ t = s.faulted 0x07 (encode (.chunkRead i))) ∨
     (∃ c, Memory.readEntry s.store i.toNat = some c ∧ t = s.answers 0 (chunkWord c))) := by
  rcases filtered_next h with h | ⟨he, h⟩
  · exact .inl h
  refine .inr ⟨he, ?_⟩
  split at h
  · next hc => injection h with h; exact .inl ⟨(Memory.readEntry_eq_none _ _).mp hc, h.symm⟩
  · next c hc => injection h with h; exact .inr ⟨c, hc, h.symm⟩

theorem execChunkClear_next (h : exec .chunkClear s = .next t) :
    (s.err = true ∧ t = s.answers 0x08 0) ∨ s.err = false ∧
    (((s.encActive = true ∨ s.decActive = true) ∧ t = s.faulted 0x03 (encode .chunkClear)) ∨
     (s.encActive = false ∧ s.decActive = false ∧ t = s.clearStore.answers 0 0)) := by
  rcases filtered_next h with h | ⟨he, h⟩
  · exact .inl h
  refine .inr ⟨he, ?_⟩
  split at h
  · next ho => injection h with h; exact .inl ⟨by simpa using ho, h.symm⟩
  · next ho =>
    have ho : s.encActive = false ∧ s.decActive = false := by simpa using ho
    injection h with h
    exact .inr ⟨ho.1, ho.2, h.symm⟩

theorem execRegRead_next {r : Byte} (h : exec (.regRead r) s = .next t) :
    (∃ reg, regOfNumber r = some reg ∧ t = s.answers 0 (s.readReg reg)) ∨
    (regOfNumber r = none ∧ s.err = true ∧ t = s.answers 0x08 0) ∨
    (regOfNumber r = none ∧ s.err = false ∧ t = s.faulted 0x01 (encode (.regRead r))) := by
  change execRegRead r s = .next t at h
  unfold execRegRead at h
  split at h
  · next reg hr => injection h with h; exact .inl ⟨reg, hr, h.symm⟩
  · next hr =>
    rcases filtered_next h with ⟨he, h⟩ | ⟨he, h⟩
    · exact .inr (.inl ⟨hr, he, h⟩)
    · injection h with h; exact .inr (.inr ⟨hr, he, h.symm⟩)

theorem execNop_next (h : exec .nop s = .next t) : t = s.answers 0 0 := by
  injection h with h; exact h.symm

theorem execSoftReset_next (h : exec .softReset s = .next t) : t = s.applyReset.answers 0 0 := by
  injection h with h; exact h.symm

/-! ### A step -/

theorem step_idle (h : s.inputs = []) : step s = .next s := by
  simp [step, h, idle]

theorem step_input {i : Input} {rest : List Input} (h : s.inputs = i :: rest) :
    step s = takeInput i { s with inputs := rest } := by
  simp [step, h]

theorem carryOut_of_decode {cmd : Word} {i : Instr} (h : decode cmd = .ok i) : carryOut cmd s = exec i s := by
  simp [carryOut, h]

theorem carryOut_of_illegal {cmd : Word} (h : ∀ i, decode cmd ≠ .ok i) :
    carryOut cmd s = filtered s (raise .illegalCmd cmd s) := by
  unfold carryOut
  split
  · next i hi => exact absurd hi (h i)
  · rfl

/-- With no input left the run is over. -/
theorem runInputs_nil (h : s.inputs = []) : runInputs s = .next s := by
  unfold runInputs
  rw [h]
  rfl

end Sys2Proof.Machine
end

