-- ==== Sys2Proof/Tests/Slice0.lean ====
section
/-! SUPPORT. The model's own tests: expected values are those of spec/95_test_vectors.md (the vector's id stands with each),
or worked out from the rule named. Then a witness for the hypotheses of each statement that has any. -/

namespace Sys2Proof.Tests

open Sys2Proof.Machine

/-! ### Well-formedness: the one check refuses the first number beyond its range -/

theorem test_wf_refuses_register_14 : Instr.wf (.regRead 14) = false := by decide
theorem test_wf_accepts_register_13 : Instr.wf (.regRead 13) = true := by decide

/-! ### Decoding: each row's word, written out from the fields of rule R70 (RSV, W, B, OP) -/

/-- The word with these fields, most significant first. -/
def fields (rsv : BitVec 16) (w : RunLength) (b op : Byte) : Word := rsv ++ w ++ b ++ op

/-- The command a word decodes to. -/
def decoded (cmd : Word) : Option Instr :=
  match decode cmd with
  | .ok i => some i
  | .error _ => none

/-- Why a word is refused. -/
def rejected (cmd : Word) : Option DecodeReject :=
  match decode cmd with
  | .ok _ => none
  | .error e => some e

theorem test_decode_nop : decoded (fields 0 0 0b00000000 0b00000000) = some .nop := by decide
theorem test_decode_enc_begin : decoded (fields 0 0 0b00000000 0b00000001) = some (.encBegin .clear) := by decide
theorem test_decode_enc_begin_append : decoded (fields 0 0 0b00000001 0b00000001) = some (.encBegin .append) := by
  decide
theorem test_decode_enc_pixel : decoded (fields 0 0 0b10000001 0b00000010) = some (.encPixel 129) := by decide
theorem test_decode_enc_end : decoded (fields 0 0 0b00000000 0b00000011) = some .encEnd := by decide
theorem test_decode_dec_begin : decoded (fields 0 0 0b00000000 0b00010000) = some .decBegin := by decide
theorem test_decode_dec_pixel : decoded (fields 0 0 0b00000000 0b00010001) = some .decPixel := by decide
theorem test_decode_chunk_load :
    decoded (fields 0 0x80000001 0b10000000 0b00100000) = some (.chunkLoad 128 0x80000001) := by decide
theorem test_decode_chunk_read : decoded (fields 0 0x80000001 0b00000000 0b00100001) = some (.chunkRead 0x80000001) := by
  decide
theorem test_decode_chunk_clear : decoded (fields 0 0 0b00000000 0b00100010) = some .chunkClear := by decide
theorem test_decode_reg_read : decoded (fields 0 0 0b00001101 0b00110000) = some (.regRead 13) := by decide
theorem test_decode_soft_reset : decoded (fields 0 0 0b00000000 0b00111111) = some .softReset := by decide

/-- Vectors E22, E23, K10, K14, K23: a must-be-zero bit set. -/
theorem test_decode_must_be_zero :
    [0x0000000000010002, 0x0000000000000201, 0x0001000000010520, 0x0000000000000121, 0x0000000000000100].map rejected
      = List.replicate 5 (some .mustBeZeroSet) := by decide

/-- Vectors K24, K25, K21: unassigned opcodes and a reserved register. -/
theorem test_decode_refused :
    [0x04, 0xFF, 0xE30].map rejected
      = [some .unassignedOpcode, some .unassignedOpcode, some .reservedRegister] := by decide

theorem test_decode_table_word : decodeTableWord 64 0x0000000000030520 = some (.chunkLoad 5 3) := by decide

/-- The words of spec/95_test_vectors.md's conventions. -/
theorem test_encode :
    encode (.encPixel 5) = 0x502 ∧ encode (.chunkLoad 255 0xFFFFFFFF) = 0x0000FFFFFFFFFF20 ∧
    encode (.chunkRead 2) = 0x20021 ∧ encode (.regRead 4) = 0x430 := by decide

/-! ### States -/

/-- The store of vectors D1 to D14. -/
def sample : Memory := [⟨5, 3⟩, ⟨2, 2⟩, ⟨9, 1⟩]

/-- An idle block of two (or, for `sample`, three) entries or more. -/
def idleWith (cap : Nat) (m : Memory) : State := { State.resetWith cap with store := m }

/-- A clear pass in progress, its chunks in the store, a run open. -/
def inPass (cap : Nat) (m : Memory) (v : Byte) (n : RunLength) : State :=
  { idleWith cap m with
    encActive := true
    runOpen := true
    runValue := v
    runLen := n
    pixIn := BitVec.ofNat 64 (Memory.pixels m) + n.setWidth 64 }

/-- A pass just begun. -/
def passBegun (cap : Nat) (m : Memory) : State :=
  { idleWith cap m with encActive := true, append := true, passBase := BitVec.ofNat 64 m.length }

/-- A decode in progress. -/
def inDecode (cap : Nat) (m : Memory) (chunk : Word) (offset : RunLength) (emitted : Word) : State :=
  { idleWith cap m with
    decActive := true
    decTotal := BitVec.ofNat 64 (Memory.pixels m)
    decChunk := chunk
    decOffset := offset
    decEmitted := emitted }

/-- The state after vector E6. -/
def inError : State :=
  { inPass 8 [] 5 0xFFFFFFFF with err := true, errCause := 4, errCmd := 0x502 }

/-- The next state, where there is one. -/
def next (o : Result) : Option State :=
  match o with
  | .next s => some s
  | .fault _ => none
  | .refused _ => none

/-- What the last response was, and a view of the state after it. -/
def outcome {α : Type} (o : Result) (view : State → α) : Option (Option Response × α) :=
  (next o).map (fun s => (s.responses.getLast?, view s))

/-! ### One step of each command -/

/-- X9. -/
theorem test_nop_in_error : outcome (exec .nop inError) (fun s => s.err) = some (some ⟨0, 0⟩, true) := by decide

/-- E2. -/
theorem test_enc_begin_append :
    outcome (exec (.encBegin .append) (idleWith 8 sample)) (fun s => (statusWord s, s.passBase, s.chunkCount))
      = some (some ⟨0, 3⟩, (0x05, 3, 3)) := by decide

/-- E18. -/
theorem test_enc_begin_twice :
    outcome (exec (.encBegin .clear) (passBegun 8 [])) (fun s => (s.err, s.errCmd))
      = some (some ⟨2, 0⟩, (true, 0x1)) := by decide

/-- E6. -/
theorem test_enc_pixel_overflow :
    outcome (exec (.encPixel 5) (inPass 8 [] 5 0xFFFFFFFF)) (fun s => (statusWord s, s.errCause, s.errCmd, s.runLen))
      = some (some ⟨4, 0⟩, (0x23, 4, 0x502, 0xFFFFFFFF)) := by decide

/-- E7. -/
theorem test_enc_pixel_boundary :
    outcome (exec (.encPixel 6) (inPass 8 [] 5 0xFFFFFFFF)) (fun s => (s.store, s.runValue, s.runLen))
      = some (some ⟨0, 1⟩, ([⟨5, 0xFFFFFFFF⟩], 6, 1)) := by decide

/-- E11. -/
theorem test_enc_end_full :
    outcome (exec .encEnd (inPass 2 [⟨0, 1⟩, ⟨1, 1⟩] 9 1)) (fun s => (statusWord s, s.errCmd))
      = some (some ⟨5, 0⟩, (0x23, 0x3)) := by decide

/-- E13. -/
theorem test_enc_end_flushes :
    outcome (exec .encEnd (inPass 8 [⟨5, 3⟩, ⟨2, 2⟩] 9 1)) (fun s => (s.store, statusWord s))
      = some (some ⟨0, 3⟩, (sample, 0)) := by decide

/-- D4. -/
theorem test_dec_begin_empty :
    outcome (exec .decBegin (idleWith 8 [])) statusWord = some (some ⟨0, 0⟩, 0x10) := by decide

/-- D12. -/
theorem test_dec_begin_total_beyond_32_bits :
    outcome (exec .decBegin (idleWith 8 [⟨1, 0xFFFFFFFF⟩, ⟨2, 0xFFFFFFFF⟩])) statusWord
      = some (some ⟨0, 0x00000001FFFFFFFE⟩, 0x08) := by decide

/-- D2, the third pixel. -/
theorem test_dec_pixel_leaves_chunk :
    outcome (exec .decPixel (inDecode 8 sample 0 2 2)) (fun s => (s.decChunk, s.decOffset, s.decEmitted))
      = some (some ⟨0, 5⟩, (1, 0, 3)) := by decide

/-- D11. -/
theorem test_dec_pixel_last :
    outcome (exec .decPixel (inDecode 8 [⟨9, 0xFFFFFFFF⟩] 0 0xFFFFFFFE 0xFFFFFFFE))
        (fun s => (s.decChunk, s.decOffset, s.decEmitted, statusWord s))
      = some (some ⟨0, 9⟩, (1, 0, 0xFFFFFFFF, 0x10)) := by decide

/-- K2. -/
theorem test_chunk_load :
    outcome (exec (.chunkLoad 255 0xFFFFFFFF) (idleWith 8 [⟨5, 3⟩])) (fun s => s.store)
      = some (some ⟨0, 2⟩, [⟨5, 3⟩, ⟨255, 0xFFFFFFFF⟩]) := by decide

/-- K5: `ZERO_RUN` before `STORE_FULL`. -/
theorem test_chunk_load_zero_run_first :
    outcome (exec (.chunkLoad 7 0) (idleWith 2 [⟨0, 1⟩, ⟨1, 1⟩])) (fun s => s.errCause) = some (some ⟨6, 0⟩, 6) := by
  decide

/-- K3. -/
theorem test_chunk_read :
    outcome (exec (.chunkRead 1) (idleWith 8 [⟨5, 3⟩, ⟨255, 0xFFFFFFFF⟩])) (fun s => s.err)
      = some (some ⟨0, 0x000000FFFFFFFFFF⟩, false) := by decide

/-- K12. -/
theorem test_chunk_read_out_of_range :
    outcome (exec (.chunkRead 3) (idleWith 8 sample)) (fun s => (s.errCause, s.errCmd))
      = some (some ⟨7, 0⟩, (7, 0x30021)) := by decide

/-- K8. -/
theorem test_chunk_clear_busy :
    outcome (exec .chunkClear (inDecode 8 sample 0 0 0)) (fun s => s.store) = some (some ⟨3, 0⟩, sample) := by decide

/-- K16. -/
theorem test_chunk_clear :
    outcome (exec .chunkClear (idleWith 8 sample)) (fun s => s.chunkCount) = some (some ⟨0, 0⟩, 0) := by decide

/-- X6. -/
theorem test_reg_read_status_in_error :
    outcome (exec (.regRead 1) inError) (fun s => s.errCause) = some (some ⟨0, 0x23⟩, 4) := by decide

/-- K18 with a capacity of 8. -/
theorem test_reg_read_capacity :
    outcome (exec (.regRead 5) (idleWith 8 [])) (fun s => s.err) = some (some ⟨0, 8⟩, false) := by decide

/-- X11. -/
theorem test_soft_reset_leaves_error :
    outcome (exec .softReset inError) (fun s => (statusWord s, s.errCause, s.errCmd))
      = some (some ⟨0, 0⟩, (0, 0, 0)) := by decide

/-! ### The ports -/

/-- K10 as a step: an illegal word faults with the whole word latched. -/
theorem test_step_illegal_word :
    outcome (step ((idleWith 8 []).withFetchWord 64 0x0001000000010520)) (fun s => (s.errCause, s.errCmd, s.inputs))
      = some (some ⟨1, 0⟩, (1, 0x0001000000010520, [])) := by decide

/-- X7: an ill-formed word in the error state is `BLOCKED`. -/
theorem test_step_blocked :
    outcome (step (inError.withFetchWord 64 0xE30)) (fun s => (s.errCause, s.errCmd)) = some (some ⟨8, 0⟩, (4, 0x502)) := by
  decide

/-- K1, as the first command after reset, whatever the capacity is. -/
theorem test_step_first_after_reset :
    outcome (step (State.reset.withFetchWord 64 0x0000000000030520)) (fun s => s.store) = some (some ⟨0, 1⟩, [⟨5, 3⟩]) := by
  decide

/-! ### The reference functions and the assembler -/

/-- S1. -/
theorem test_reference_functions :
    encodePixels [5, 5, 5, 2, 2, 9] = [(5, 3), (2, 2), (9, 1)] ∧
    decodeRuns [(5, 3), (2, 2), (9, 1)] = [5, 5, 5, 2, 2, 9] := by decide

/-- S7. -/
theorem test_chunk_table :
    chunkTable sample = [3, 0, 0, 0, 0, 0, 0, 0, 5, 3, 0, 0, 0, 2, 2, 0, 0, 0, 9, 1, 0, 0, 0] ∧
    readTable (chunkTable sample) = some sample := by decide

/-- Rule R80, its accepted zero run included, and vector K2 as it is written there. -/
theorem test_assembler_accepts :
    ["ENC_BEGIN.APPEND", "ENC_PIXEL 0xff", "CHUNK_LOAD 7, 0", "REG_READ PIX_IN", "CHUNK_LOAD 255, 0xFFFF_FFFF"].map
      assemble
      = [some (.encBegin .append), some (.encPixel 255), some (.chunkLoad 7 0), some (.regRead 7),
        some (.chunkLoad 255 0xFFFFFFFF)] := by decide

/-- Rule R80: operands out of range; then the model's choice of where `_` may stand (log entry 14). -/
theorem test_assembler_rejects :
    ["ENC_PIXEL 256", "CHUNK_READ 0x100000000", "REG_READ 14", "NOP 0", "ENC_PIXEL _5", "ENC_PIXEL 5_",
      "ENC_PIXEL 1__0", "ENC_PIXEL 0x_5"].map assemble = List.replicate 8 none := by decide

/-! ### Witnesses: states and operands that meet the hypotheses of each statement, clause by clause -/

/-- A full block of two entries. -/
def full : Memory := [⟨0, 1⟩, ⟨1, 1⟩]

/-- `s` with these inputs to come. -/
def driven (s : State) (inputs : List Input) : State := { s with inputs := inputs }

/-- An idle block meets the invariants whenever its store has its form. -/
theorem idle_inv {cap : Nat} {m : Memory} (low : 1 ≤ cap) (high : cap ≤ 2 ^ 32) (h : Memory.wf cap m = true) :
    (idleWith cap m).Inv where
  capBounds := ⟨low, high⟩
  oneEngine := by simp [idleWith, State.resetWith]
  openRun := by simp [idleWith, State.resetWith]
  noRun := by simp [idleWith, State.resetWith]
  positiveRuns := fun i c hc => by
    have := ((Memory.wf_iff cap m).mp h).2 c (Memory.readEntry_mem hc)
    have : c.run.toNat ≠ 0 := fun h0 => this (BitVec.eq_of_toNat_eq h0)
    omega
  withinCap := ((Memory.wf_iff cap m).mp h).1
  baseBelowCount := by simp [idleWith, State.resetWith]
  pixelsCounted := by simp [idleWith, State.resetWith]
  maximalChunks := by simp [idleWith, State.resetWith]
  maximalOpenRun := by simp [idleWith, State.resetWith]
  freshPass := by simp [idleWith, State.resetWith]
  decodeTotal := by simp [idleWith, State.resetWith]
  cursorInStore := by simp [idleWith, State.resetWith]
  emittedCounted := by simp [idleWith, State.resetWith]
  noError := by simp [idleWith, State.resetWith]
  errorCause := by simp [idleWith, State.resetWith]

theorem sample_inv : (idleWith 8 sample).Inv := idle_inv (by decide) (by decide) (by decide)

/-- A pass one chunk in, with a run of the greatest length open. -/
def longRun : State := inPass 8 [⟨5, 3⟩] 9 0xFFFFFFFF

theorem longRun_inv : longRun.Inv where
  capBounds := by decide
  oneEngine := by decide
  openRun := by decide
  noRun := by decide
  positiveRuns := by
    rintro (_ | i) c h
    · obtain rfl : (⟨5, 3⟩ : Chunk) = c := by simpa [Memory.readEntry, longRun, inPass, idleWith] using h
      decide
    · simp [Memory.readEntry, longRun, inPass, idleWith] at h
  withinCap := by decide
  baseBelowCount := by decide
  pixelsCounted := by decide
  maximalChunks := by
    rintro - i c d - - h
    simp [Memory.readEntry, longRun, inPass, idleWith] at h
  maximalOpenRun := by
    rintro - - - c h
    obtain rfl : (⟨5, 3⟩ : Chunk) = c := by
      simpa [Memory.readEntry, longRun, inPass, idleWith, State.chunkCount] using h
    decide
  freshPass := by decide
  decodeTotal := by decide
  cursorInStore := by decide
  emittedCounted := by decide
  noError := by decide
  errorCause := fun h => absurd h (by decide)

/-- A decode at the last slot of its first chunk. -/
def atChunkEnd : State := inDecode 8 sample 0 2 2

theorem atChunkEnd_inv : atChunkEnd.Inv where
  capBounds := by decide
  oneEngine := by decide
  openRun := by decide
  noRun := by decide
  positiveRuns := sample_inv.positiveRuns
  withinCap := by decide
  baseBelowCount := by decide
  pixelsCounted := by decide
  maximalChunks := fun h => absurd h (by decide)
  maximalOpenRun := fun h => absurd h (by decide)
  freshPass := by decide
  decodeTotal := by decide
  cursorInStore := fun _ => ⟨⟨5, 3⟩, by decide, by decide⟩
  emittedCounted := by decide
  noError := by decide
  errorCause := fun h => absurd h (by decide)

/-- The decode begun over the sample, no pixel emitted. -/
def atChunkStart : State := inDecode 8 sample 0 0 0

theorem atChunkStart_inv : atChunkStart.Inv where
  capBounds := by decide
  oneEngine := by decide
  openRun := by decide
  noRun := by decide
  positiveRuns := sample_inv.positiveRuns
  withinCap := by decide
  baseBelowCount := by decide
  pixelsCounted := by decide
  maximalChunks := fun h => absurd h (by decide)
  maximalOpenRun := fun h => absurd h (by decide)
  freshPass := by decide
  decodeTotal := by decide
  cursorInStore := fun _ => ⟨⟨5, 3⟩, by decide, by decide⟩
  emittedCounted := by decide
  noError := by decide
  errorCause := fun h => absurd h (by decide)

/-- A pass with its first run one short of the limit. -/
def shortRun : State := inPass 8 [] 9 0xFFFFFFFE

theorem shortRun_inv : shortRun.Inv where
  capBounds := by decide
  oneEngine := by decide
  openRun := by decide
  noRun := by decide
  positiveRuns := fun _ _ h => by simp [Memory.readEntry, shortRun, inPass, idleWith] at h
  withinCap := by decide
  baseBelowCount := by decide
  pixelsCounted := by decide
  maximalChunks := fun _ _ _ _ _ h => by simp [Memory.readEntry, shortRun, inPass, idleWith] at h
  maximalOpenRun := fun _ _ h => absurd h (by decide)
  freshPass := by decide
  decodeTotal := by decide
  cursorInStore := by decide
  emittedCounted := by decide
  noError := by decide
  errorCause := fun h => absurd h (by decide)

/-- The invariants do not speak of the inputs to come. -/
theorem driven_inv {s : State} (h : s.Inv) (inputs : List Input) : (driven s inputs).Inv :=
  ⟨h.capBounds, h.oneEngine, h.openRun, h.noRun, h.positiveRuns, h.withinCap, h.baseBelowCount, h.pixelsCounted,
    h.maximalChunks, h.maximalOpenRun, h.freshPass, h.decodeTotal, h.cursorInStore, h.emittedCounted, h.noError,
    h.errorCause⟩

theorem witness_DecodeOfEncodeIsTheCommand : Instr.wf (.regRead 13) = true ∧ Instr.wf (.chunkLoad 255 0xFFFFFFFF) = true :=
  by decide

theorem witness_EncodeOfDecodeIsTheWord : decode 0x0000FFFFFFFFFF20 = .ok (.chunkLoad 255 0xFFFFFFFF) := rfl

theorem witness_DecodeAgreesWithOpcodeTable :
    (opcodeTable[9]?.any fun row => row.selectedBy 0xD30) = true := by decide

/-- One word of each class of illegal words, the register number at its boundary. -/
theorem witness_IllegalWordsFault :
    (∀ i, decode 0x04 ≠ .ok i) ∧ (∀ i, decode 0x10002 ≠ .ok i) ∧ (∀ i, decode 0xE30 ≠ .ok i) ∧
      (idleWith 2 full).err = false :=
  ⟨nofun, nofun, nofun, rfl⟩

theorem witness_StepRunsDecodedCommand :
    (driven (idleWith 2 full) [.command 0x10021, .hardReset]).inputs = .command 0x10021 :: [.hardReset] ∧
      decode 0x10021 = .ok (.chunkRead 1) := ⟨rfl, rfl⟩

theorem witness_IdleBlockKeepsItsState : longRun.inputs = [] := rfl

theorem witness_ResetInputResetsTheBlock : (driven longRun [.hardReset]).inputs = .hardReset :: [] := rfl

/-- The word is one whose command is carried out, so that either case is open. -/
theorem witness_ResetDuringCommandLeavesResetBlock :
    (driven longRun [.resetDuring 0x03]).inputs = .resetDuring 0x03 :: [] ∧
      (next (carryOut 0x03 longRun)).isSome = true := ⟨rfl, by decide⟩

theorem witness_EncBeginFollowsItsRule :
    (atChunkEnd.err = false ∧ atChunkEnd.decActive = true) ∧
    (longRun.err = false ∧ longRun.decActive = false ∧ longRun.encActive = true) ∧
    ((idleWith 2 full).err = false ∧ (idleWith 2 full).decActive = false ∧ (idleWith 2 full).encActive = false) := by
  decide

/-- The six clauses in order: no pass, a pass begun, a run at its limit and one below it, a boundary in a full store and one
with room. -/
theorem witness_EncPixelFollowsItsRule :
    (atChunkEnd.err = false ∧ atChunkEnd.encActive = false) ∧
    ((passBegun 2 full).err = false ∧ (passBegun 2 full).encActive = true ∧ (passBegun 2 full).runOpen = false) ∧
    (longRun.err = false ∧ longRun.encActive = true ∧ longRun.runOpen = true ∧ (9 : Byte) = longRun.runValue ∧
      longRun.runLen = 0xFFFFFFFF) ∧
    (let s := inPass 8 [] 9 0xFFFFFFFE
     s.err = false ∧ s.encActive = true ∧ s.runOpen = true ∧ 9 = s.runValue ∧ s.runLen ≠ 0xFFFFFFFF) ∧
    (let s := inPass 2 full 9 1
     s.err = false ∧ s.encActive = true ∧ s.runOpen = true ∧ 8 ≠ s.runValue ∧ s.store.length = s.chunkCap) ∧
    (let s := inPass 3 full 9 1
     s.err = false ∧ s.encActive = true ∧ s.runOpen = true ∧ 8 ≠ s.runValue ∧ s.store.length ≠ s.chunkCap) := by
  decide

theorem witness_EncEndFollowsItsRule :
    (atChunkEnd.err = false ∧ atChunkEnd.encActive = false) ∧
    (let s := inPass 2 full 9 1
     s.err = false ∧ s.encActive = true ∧ s.runOpen = true ∧ s.store.length = s.chunkCap) ∧
    (let s := inPass 3 full 9 1
     s.err = false ∧ s.encActive = true ∧ s.runOpen = true ∧ s.store.length ≠ s.chunkCap) ∧
    ((passBegun 2 full).err = false ∧ (passBegun 2 full).encActive = true ∧ (passBegun 2 full).runOpen = false) := by
  decide

theorem witness_DecBeginFollowsItsRule :
    (longRun.err = false ∧ longRun.encActive = true) ∧
    (atChunkEnd.err = false ∧ atChunkEnd.encActive = false ∧ atChunkEnd.decActive = true) ∧
    (let s := idleWith 8 []
     s.err = false ∧ s.encActive = false ∧ s.decActive = false ∧ (s.store.map fun c => c.run.toNat).sum = 0) ∧
    (let s := idleWith 8 [⟨1, 0xFFFFFFFF⟩, ⟨2, 0xFFFFFFFF⟩]
     s.err = false ∧ s.encActive = false ∧ s.decActive = false ∧ (s.store.map fun c => c.run.toNat).sum ≠ 0 ∧
      (s.store.map fun c => c.run.toNat).sum < 2 ^ 64) := by
  decide

theorem witness_DecPixelFollowsItsRule :
    (longRun.err = false ∧ longRun.decActive = false) ∧
    (atChunkEnd.err = false ∧ atChunkEnd.decActive = true ∧ atChunkEnd.store[atChunkEnd.decChunk.toNat]? = some ⟨5, 3⟩) := by
  decide

theorem witness_DecPixelBeyondTheCountStops :
    let s := inDecode 8 sample 3 0 5
    s.err = false ∧ s.decActive = true ∧ s.store.length ≤ s.decChunk.toNat := by
  decide

theorem witness_ChunkLoadFollowsItsRule :
    (longRun.err = false ∧ (longRun.encActive = true ∨ longRun.decActive = true)) ∧
    (let s := idleWith 2 full
     s.err = false ∧ s.encActive = false ∧ s.decActive = false ∧ s.store.length = s.chunkCap) ∧
    (let s := idleWith 3 full
     s.err = false ∧ s.encActive = false ∧ s.decActive = false ∧ s.store.length ≠ s.chunkCap) ∧
    ((0 : RunLength) = 0 ∧ (1 : RunLength) ≠ 0) := by
  decide

theorem witness_ChunkReadFollowsItsRule :
    (idleWith 2 full).err = false ∧ (idleWith 2 full).store.length ≤ (2 : RunLength).toNat ∧
      (idleWith 2 full).store[(1 : RunLength).toNat]? = some ⟨1, 1⟩ := by
  decide

theorem witness_ChunkClearFollowsItsRule :
    (atChunkEnd.err = false ∧ (atChunkEnd.encActive = true ∨ atChunkEnd.decActive = true)) ∧
    ((idleWith 2 full).err = false ∧ (idleWith 2 full).encActive = false ∧ (idleWith 2 full).decActive = false) := by
  decide

theorem witness_RegReadFollowsItsRule :
    (opField 0x10430 = 0x30 ∧ wField 0x10430 ≠ 0) ∧ (opField 0x0001000000000430 = 0x30 ∧ rsvField 0x0001000000000430 ≠ 0) ∧
    14 ≤ (14 : Byte).toNat ∧ 14 ≤ (255 : Byte).toNat ∧ (idleWith 2 full).err = false ∧ inError.err = true := by
  decide

theorem witness_ErrorStateFilterBlocks :
    inError.err = true ∧ (decode 0x130 = .ok (.regRead 1) ∧ Instr.passesFilter (.regRead 1) = true) ∧
      (∀ i, decode 0x03 = .ok i → i.passesFilter = false) ∧ (∀ i, decode 0xE30 = .ok i → i.passesFilter = false) := by
  refine ⟨rfl, ⟨rfl, rfl⟩, fun i h => ?_, nofun⟩
  have h : (.ok .encEnd : Except DecodeReject Instr) = .ok i := h
  injection h with h
  subst h
  rfl

theorem witness_FaultsArePrecise :
    (idleWith 2 full).err = false ∧ carryOut 0x03 (idleWith 2 full) = .next ((idleWith 2 full).faulted 0x02 0x03) ∧
      ((idleWith 2 full).faulted 0x02 0x03).err = true := ⟨rfl, rfl, rfl⟩

theorem witness_CausesComeFromTheirCommands :
    Instr.wf (.chunkLoad 7 1) = true ∧ (idleWith 2 full).err = false ∧
      exec (.chunkLoad 7 1) (idleWith 2 full) = .next ((idleWith 2 full).faulted 0x05 0x10720) := ⟨rfl, rfl, rfl⟩

theorem witness_EveryCommandAnswersOnce : carryOut 0x11 inError = .next (inError.answers 0x08 0) := rfl

theorem witness_OnlyResetLeavesTheErrorState :
    inError.err = true ∧ (next (step (driven inError [.hardReset]))).map State.err = some false ∧
      (next (step (driven inError [.resetDuring 0x11]))).map State.err = some false ∧
      (next (step (driven inError [.command 0x3F]))).map State.err = some false := ⟨rfl, rfl, rfl, rfl⟩

/-- A blocked word, an illegal word and a `NOP`. -/
theorem witness_ErrorStateKeepsTheFirstFault :
    inError.err = true ∧ (∀ cmd ∈ [0x03, 0xE30, 0x00], decode cmd ≠ .ok .softReset) ∧
      (next (runInputs (driven inError ([0x03, 0xE30, 0x00].map .command)))).map State.errCmd = some 0x502 := by
  refine ⟨rfl, ?_, by decide⟩
  intro cmd h
  fin_cases h <;> nofun

/-- A run that stays usable and one that does not. -/
theorem witness_UsableExactlyWhenEveryResponseIsOk :
    (idleWith 2 full).err = false ∧ (∀ cmd ∈ [0x10, 0x11], decode cmd ≠ .ok .softReset) ∧
      (∀ cmd ∈ [0x11], decode cmd ≠ .ok .softReset) ∧
      (next (runInputs (driven (idleWith 2 full) ([0x10, 0x11].map .command)))).map State.err = some false ∧
      (next (runInputs (driven (idleWith 2 full) ([0x11].map .command)))).map State.err = some true := by
  refine ⟨rfl, ?_, ?_, by decide, by decide⟩ <;>
  · intro cmd h
    fin_cases h <;> nofun

theorem witness_RegistersAreWrittenOnlyByTheirCommands :
    (next (exec (.encPixel 8) (inPass 3 full 9 1))).map State.runValue = some 8 := by decide

/-- One command of each kind: a write, a clear, neither. -/
theorem witness_StoreWritesAreAppendOnly :
    (next (exec .encEnd (inPass 3 full 9 1))).map State.store = some (full ++ [⟨9, 1⟩]) ∧
      (next (exec .chunkClear (idleWith 2 full))).map State.store = some [] ∧
      (next (exec .decPixel atChunkEnd)).map State.store = some sample := by decide

theorem witness_OpenEngineOwnsTheStore :
    (atChunkEnd.err = false ∧ atChunkEnd.decActive = true ∧ atChunkEnd.encActive = false ∧
      (next (exec .decPixel atChunkEnd)).isSome = true) ∧
    (longRun.err = false ∧ longRun.encActive = true ∧ (next (exec (.chunkRead 0) longRun)).isSome = true) := by decide

theorem witness_EnginesCloseOnlyAtTheirEnd :
    (longRun.encActive = true ∧ (next (exec .encEnd longRun)).map State.encActive = some false) ∧
    ((inDecode 8 sample 2 0 5).decActive = true ∧
      (next (exec .decPixel (inDecode 8 sample 2 0 5))).map State.decActive = some false) := by decide

theorem witness_SuccessfulReadsChangeNothing :
    exec (.chunkRead 1) longRun = .next (longRun.faulted 0x07 0x10021) ∧
    exec (.chunkRead 0) longRun = .next (longRun.answers 0 0x305) ∧
    exec (.regRead 13) inError = .next (inError.answers 0 0) ∧ exec .nop inError = .next (inError.answers 0 0) :=
  ⟨rfl, rfl, rfl, rfl⟩

/-- The two states differ at their ports only. -/
theorem witness_NoStateIsHidden :
    (idleWith 8 sample).Inv ∧ (driven (idleWith 8 sample) [.hardReset]).Inv ∧
      (∀ r : Reg, (idleWith 8 sample).readReg r = (driven (idleWith 8 sample) [.hardReset]).readReg r) ∧
      (∀ (i : Nat) (c : Chunk), Memory.readEntry (idleWith 8 sample).store i = some c →
        ∃ d, Memory.readEntry (driven (idleWith 8 sample) [.hardReset]).store i = some d ∧ chunkWord c = chunkWord d) :=
  ⟨sample_inv, driven_inv sample_inv _, fun r => by cases r <;> rfl, fun _ c h => ⟨c, h, rfl⟩⟩

theorem witness_InvariantsHoldAtReset : 1 ≤ 2 ^ 32 ∧ 2 ^ 32 ≤ 2 ^ 32 := by decide

/-- From a pass at its run's limit and from a decode at a chunk's end, each with its own command next. -/
theorem witness_StepKeepsTheInvariants :
    ((driven longRun [.command 0x0802]).Inv ∧ (next (step (driven longRun [.command 0x0802]))).isSome = true) ∧
    ((driven atChunkEnd [.command 0x11]).Inv ∧ (next (step (driven atChunkEnd [.command 0x11]))).isSome = true) :=
  ⟨⟨driven_inv longRun_inv _, by decide⟩, ⟨driven_inv atChunkEnd_inv _, by decide⟩⟩

/-- The smallest capacity, and a run of two steps. -/
theorem witness_ReachableStatesMeetTheInvariants :
    (1 ≤ 1 ∧ 1 ≤ 2 ^ 32) ∧
      (next (Sys2Proof.core.run 2 (driven (State.resetWith 1) [.command 0x01, .command 0x0502]))).isSome = true := by
  decide

theorem witness_EveryInputIsCarriedOut : longRun.Inv ∧ atChunkEnd.Inv := ⟨longRun_inv, atChunkEnd_inv⟩

/-- A pass begun after the sample, an accepted pixel and an extended run, a pass ended, a decode begun, a pixel that leaves its
chunk and one that does not, a chunk loaded. -/
theorem witness_CountersNeverWrap :
    (idleWith 8 sample).Inv ∧ (next (exec (.encBegin .append) (idleWith 8 sample))).map State.err = some false ∧
    (longRun.Inv ∧ longRun.err = false ∧ (next (exec (.encPixel 8) longRun)).map State.err = some false) ∧
    (shortRun.Inv ∧ shortRun.runOpen = true ∧ (next (exec (.encPixel 9) shortRun)).map State.err = some false) ∧
    (next (exec .encEnd longRun)).map State.err = some false ∧
    (next (exec .decBegin (idleWith 8 sample))).map State.err = some false ∧
    (atChunkEnd.Inv ∧ (next (exec .decPixel atChunkEnd)).map State.err = some false ∧
      atChunkEnd.store[atChunkEnd.decChunk.toNat]? = some ⟨5, 3⟩ ∧ atChunkEnd.decOffset.toNat + 1 = 3) ∧
    (atChunkStart.Inv ∧ (next (exec .decPixel atChunkStart)).map State.err = some false ∧
      atChunkStart.store[atChunkStart.decChunk.toNat]? = some ⟨5, 3⟩ ∧ atChunkStart.decOffset.toNat + 1 ≠ 3) ∧
    (next (exec (.chunkLoad 7 1) (idleWith 8 sample))).map State.err = some false :=
  ⟨sample_inv, by decide, ⟨longRun_inv, rfl, by decide⟩, ⟨shortRun_inv, rfl, by decide⟩, by decide, by decide,
    ⟨atChunkEnd_inv, by decide, by decide, by decide⟩, ⟨atChunkStart_inv, by decide, by decide, by decide⟩, by decide⟩

theorem witness_EncodingIsMaximal :
    (encodePixels [5, 5, 2])[0]? = some (5, 2) ∧ (encodePixels [5, 5, 2])[0 + 1]? = some (2, 1) := by decide

/-- A longer sequence for the same pixels. -/
theorem witness_EncodingIsMinimal : decodeRuns [(5, 1), (5, 1), (2, 0)] = [5, 5] := by decide

theorem witness_ChunkTableReadsBack : sample.length < 2 ^ 64 ∧ 22 < (chunkTable sample).length := by decide

/-- An append pass that just fits. -/
theorem witness_EncodePassStoresTheEncoding :
    let s := driven (idleWith 4 full) (issue (encodeCommands .append [7, 7, 1]))
    s.Idle ∧ s.PassFits .append [7, 7, 1] ∧ s.inputs = issue (encodeCommands .append [7, 7, 1]) :=
  ⟨⟨rfl, rfl, rfl⟩, ⟨by decide, by decide⟩, rfl⟩

/-- The same pass with one entry too few. -/
theorem witness_EncodePassThatDoesNotFitFaultsOnce :
    let s := driven (idleWith 3 full) (issue (encodeCommands .append [7, 7, 1]))
    s.Idle ∧ s.chunkCount ≤ s.chunkCap ∧ ¬ s.PassFits .append [7, 7, 1] ∧
      s.inputs = issue (encodeCommands .append [7, 7, 1]) :=
  ⟨⟨rfl, rfl, rfl⟩, by decide, fun h => absurd h.2 (by decide), rfl⟩

theorem witness_LoadedSequenceIsStored :
    let s := driven (idleWith 3 full) (issue (loadCommands sample))
    s.Idle ∧ (∀ c ∈ sample, c.run ≠ 0) ∧ sample.length ≤ s.chunkCap ∧ s.inputs = issue (loadCommands sample) :=
  ⟨⟨rfl, rfl, rfl⟩, by decide, by decide, rfl⟩

/-- The sample's six pixels, and the empty store's none. -/
theorem witness_DecodeReturnsTheStoredPixels :
    (let s := driven (idleWith 8 sample) (issue (decodeCommands 6))
     s.Inv ∧ s.Idle ∧ s.inputs = issue (decodeCommands (totalLength (Memory.runs s.store)))) ∧
    (let s := driven (idleWith 8 []) (issue (decodeCommands 0))
     s.Inv ∧ s.Idle ∧ s.inputs = issue (decodeCommands (totalLength (Memory.runs s.store)))) :=
  ⟨⟨driven_inv sample_inv _, ⟨rfl, rfl, rfl⟩, rfl⟩,
    ⟨driven_inv (idle_inv (by decide) (by decide) rfl) _, ⟨rfl, rfl, rfl⟩, rfl⟩⟩

theorem witness_PassThenDecodeReturnsThePixels :
    let s := driven (idleWith 8 sample) (issue (encodeCommands .append [7, 7, 1] ++ decodeCommands (6 + 3)))
    s.Inv ∧ s.Idle ∧ s.PassFits .append [7, 7, 1] ∧ s.inputs = issue (encodeCommands .append [7, 7, 1] ++
      decodeCommands (totalLength (Memory.runs (EncMode.append.keeps s.store)) + 3)) :=
  ⟨driven_inv sample_inv _, ⟨rfl, rfl, rfl⟩, ⟨by decide, by decide⟩, rfl⟩

/-- A pass with a `NOP`, a `REG_READ` and, once a chunk is stored, a `CHUNK_READ` interleaved. -/
theorem witness_InterleavedReadsLeaveTheResult :
    let commands : List Instr := [.encBegin .clear, .nop, .encPixel 7, .regRead 9, .encPixel 8, .chunkRead 0, .encEnd]
    let s := driven (idleWith 8 sample) (issue commands)
    s.err = false ∧ s.inputs = issue commands ∧ .softReset ∉ commands ∧
      (next (runInputs s)).map State.err = some false := by
  decide

end Sys2Proof.Tests
end

section
/-! PROOFS. The step (StepRunsDecodedCommand, IdleBlockKeepsItsState), its totality under the invariants
(EveryInputIsCarriedOut), and the counters as natural numbers (CountersNeverWrap). -/

namespace Sys2Proof.Machine

variable {s t : State}

/-! ### The step -/

theorem step_command_of_decode {cmd : Word} {rest : List Input} {i : Instr} (hin : s.inputs = .command cmd :: rest)
    (hdec : decode cmd = .ok i) : step s = exec i { s with inputs := rest } :=
  (step_input hin).trans (carryOut_of_decode hdec)

/-- Settles O6: the input taken is the command, and carrying it out runs what it decodes to. -/
theorem stepRunsDecodedCommand : Obligations.StepRunsDecodedCommand :=
  fun _ _ _ _ => step_command_of_decode

/-- Settles O7: `step_idle` is the statement. -/
theorem idleBlockKeepsItsState : Obligations.IdleBlockKeepsItsState :=
  fun _ => step_idle

/-! ### Totality -/

/-- The command ends with a next state: the model does not stop. -/
def Answers (r : Result) : Prop := ∃ t, r = .next t

theorem next_answers (s : State) : Answers (.next s) := ⟨s, rfl⟩

theorem respond_answers (d : Word) (s : State) : Answers (respond d s) := next_answers _

theorem raise_answers (c : Cause) (cmd : Word) (s : State) : Answers (raise c cmd s) := next_answers _

theorem ite_answers {p : Prop} [Decidable p] {a b : Result} (ha : p → Answers a) (hb : ¬ p → Answers b) :
    Answers (if p then a else b) := by
  split
  · next hp => exact ha hp
  · next hp => exact hb hp

theorem filtered_answers {run : Result} (h : Answers run) : Answers (filtered s run) :=
  ite_answers (fun _ => next_answers _) fun _ => h

theorem execChunkRead_answers (i : RunLength) (s : State) : Answers (execChunkRead i s) := by
  refine filtered_answers ?_
  split
  · exact raise_answers ..
  · exact respond_answers ..

theorem execRegRead_answers (r : Byte) (s : State) : Answers (execRegRead r s) := by
  unfold execRegRead
  split
  · exact respond_answers ..
  · exact filtered_answers (raise_answers ..)

/-- The cursor of an open decode names an entry of the store (part of INV7). -/
def State.CursorNamesEntry (s : State) : Prop :=
  s.decActive = true → ∃ c, Memory.readEntry s.store s.decChunk.toNat = some c

/-- The one meaning with a stop: it needs the cursor of an open decode to name an entry. -/
theorem execDecPixel_answers (cursor : s.CursorNamesEntry) : Answers (execDecPixel s) := by
  refine filtered_answers (ite_answers (fun _ => raise_answers ..) fun hd => ?_)
  obtain ⟨c, hc⟩ := cursor (by simpa using hd)
  rw [hc]
  exact respond_answers ..

/-- Every command but DEC_PIXEL answers from every state; DEC_PIXEL with a cursor that names an entry. -/
theorem exec_answers (cursor : s.CursorNamesEntry) (i : Instr) : Answers (exec i s) := by
  cases i with
  | nop => exact respond_answers ..
  | encBegin m =>
    exact filtered_answers <| ite_answers (fun _ => raise_answers ..) fun _ =>
      ite_answers (fun _ => raise_answers ..) fun _ => respond_answers ..
  | encPixel v =>
    exact filtered_answers <| ite_answers (fun _ => raise_answers ..) fun _ =>
      ite_answers (fun _ => respond_answers ..) fun _ =>
      ite_answers (fun _ => ite_answers (fun _ => raise_answers ..) fun _ => respond_answers ..) fun _ =>
      ite_answers (fun _ => raise_answers ..) fun _ => respond_answers ..
  | encEnd =>
    exact filtered_answers <| ite_answers (fun _ => raise_answers ..) fun _ =>
      ite_answers (fun _ => raise_answers ..) fun _ => respond_answers ..
  | decBegin =>
    exact filtered_answers <| ite_answers (fun _ => raise_answers ..) fun _ =>
      ite_answers (fun _ => raise_answers ..) fun _ => respond_answers ..
  | decPixel => exact execDecPixel_answers cursor
  | chunkLoad v n =>
    exact filtered_answers <| ite_answers (fun _ => raise_answers ..) fun _ =>
      ite_answers (fun _ => raise_answers ..) fun _ =>
      ite_answers (fun _ => raise_answers ..) fun _ => respond_answers ..
  | chunkRead j => exact execChunkRead_answers j s
  | chunkClear =>
    exact filtered_answers <| ite_answers (fun _ => raise_answers ..) fun _ => respond_answers ..
  | regRead r => exact execRegRead_answers r s
  | softReset => exact respond_answers ..

theorem carryOut_answers (cursor : s.CursorNamesEntry) (cmd : Word) : Answers (carryOut cmd s) := by
  unfold carryOut
  split
  · exact exec_answers cursor _
  · exact filtered_answers (raise_answers ..)

theorem takeInput_answers (cursor : s.CursorNamesEntry) (i : Input) : Answers (takeInput i s) := by
  cases i with
  | command cmd => exact carryOut_answers cursor cmd
  | hardReset => exact next_answers _
  | resetDuring cmd => exact next_answers _

theorem State.Inv.cursorNamesEntry (hs : s.Inv) : s.CursorNamesEntry :=
  fun hd => (hs.cursorInStore hd).imp fun _ => And.left

/-- Settles O40: the only stop of the model is DEC_PIXEL's on a cursor at or beyond the count, which INV7 excludes. -/
theorem everyInputIsCarriedOut : Obligations.EveryInputIsCarriedOut := by
  intro s hs
  cases hin : s.inputs with
  | nil => exact ⟨s, step_idle hin⟩
  | cons i rest =>
    rw [step_input hin]
    exact takeInput_answers (s := { s with inputs := rest }) hs.cursorNamesEntry i

/-! ### Commands that succeed: the inversion lemmas without their filter and fault cases -/

theorem execEncBegin_ok {m : EncMode} (he : s.err = false) (ht : t.err = false) (h : exec (.encBegin m) s = .next t) :
    t = State.answers { s with
      store := m.keeps s.store, passBase := BitVec.ofNat 64 (m.keeps s.store).length, append := decide (m = .append),
      encActive := true, runOpen := false, runValue := 0, runLen := 0, pixIn := 0 } 0
      (BitVec.ofNat 64 (m.keeps s.store).length) := by
  rcases execEncBegin_next h with ⟨hb, -⟩ | ⟨-, ⟨-, rfl⟩ | ⟨-, -, rfl⟩ | ⟨-, -, _, rfl, rfl⟩⟩
  · simp [he] at hb
  · cases ht
  · cases ht
  · rfl

/-- An accepted pixel starts the pass's first run, extends the open run, or closes it and starts the next. -/
theorem execEncPixel_ok {v : Byte} (he : s.err = false) (ht : t.err = false) (h : exec (.encPixel v) s = .next t) :
    s.encActive = true ∧
    ((s.runOpen = false ∧ t = (s.startRun v).answers 0 0) ∨
     (s.runOpen = true ∧ v = s.runValue ∧ s.runLen ≠ 0xFFFFFFFF ∧ t = s.extendRun.answers 0 0) ∨
     (s.runOpen = true ∧ v ≠ s.runValue ∧ s.chunkCount ≠ s.chunkCap ∧
       t = ((s.emitChunk s.runValue s.runLen).startRun v).answers 0 1)) := by
  rcases execEncPixel_next h with ⟨hb, -⟩ | ⟨-, ⟨-, rfl⟩ | ⟨ha, hr, rfl⟩ | ⟨-, -, -, -, rfl⟩ | ⟨ha, hr, hv, hl, rfl⟩ |
    ⟨-, -, -, -, rfl⟩ | ⟨ha, hr, hv, hc, rfl⟩⟩
  · simp [he] at hb
  · cases ht
  · exact ⟨ha, .inl ⟨hr, rfl⟩⟩
  · cases ht
  · exact ⟨ha, .inr (.inl ⟨hr, hv, hl, rfl⟩)⟩
  · cases ht
  · exact ⟨ha, .inr (.inr ⟨hr, hv, hc, rfl⟩)⟩

/-- Both ways a pass ends, told by its final count: one more entry when a run is flushed, the same store otherwise. -/
theorem execEncEnd_ok (he : s.err = false) (ht : t.err = false) (h : exec .encEnd s = .next t) :
    s.encActive = true ∧ t.passBase = s.passBase ∧
      t.responses = s.responses ++ [⟨0, BitVec.ofNat 64 t.chunkCount - s.passBase⟩] ∧
      ((s.chunkCount ≠ s.chunkCap ∧ t.chunkCount = s.chunkCount + 1) ∨ t.chunkCount = s.chunkCount) := by
  rcases execEncEnd_next h with ⟨hb, -⟩ | ⟨-, ⟨-, rfl⟩ | ⟨-, -, -, rfl⟩ | ⟨ha, -, hc, rfl⟩ | ⟨ha, -, rfl⟩⟩
  · simp [he] at hb
  · cases ht
  · cases ht
  · exact ⟨ha, rfl, by simp [State.chunkCount], .inl ⟨hc, by simp [State.chunkCount]⟩⟩
  · exact ⟨ha, rfl, rfl, .inr rfl⟩

theorem execDecBegin_ok (he : s.err = false) (ht : t.err = false) (h : exec .decBegin s = .next t) :
    t.decTotal = BitVec.ofNat 64 (Memory.pixels s.store) := by
  rcases execDecBegin_next h with ⟨hb, -⟩ | ⟨-, ⟨-, rfl⟩ | ⟨-, -, rfl⟩ | ⟨-, -, _, rfl, rfl⟩⟩
  · simp [he] at hb
  · cases ht
  · cases ht
  · rfl

theorem execDecPixel_ok (he : s.err = false) (ht : t.err = false) (h : exec .decPixel s = .next t) :
    s.decActive = true ∧ ∃ c, Memory.readEntry s.store s.decChunk.toNat = some c ∧
      t = (s.advanceCursor c.run).answers 0 (c.value.setWidth 64) := by
  rcases execDecPixel_next h with ⟨hb, -⟩ | ⟨-, ⟨-, rfl⟩ | hok⟩
  · simp [he] at hb
  · cases ht
  · exact hok

theorem execChunkLoad_ok {v : Byte} {n : RunLength} (he : s.err = false) (ht : t.err = false)
    (h : exec (.chunkLoad v n) s = .next t) :
    s.chunkCount ≠ s.chunkCap ∧ t = (s.emitChunk v n).answers 0 (BitVec.ofNat 64 (s.chunkCount + 1)) := by
  rcases execChunkLoad_next h with
    ⟨hb, -⟩ | ⟨-, ⟨-, rfl⟩ | ⟨-, -, ⟨-, rfl⟩ | ⟨-, -, rfl⟩ | ⟨-, hc, rfl⟩⟩⟩
  · simp [he] at hb
  · cases ht
  · cases ht
  · cases ht
  · exact ⟨hc, rfl⟩

/-! ### Bounds of the counters (rules R29, R34) -/

theorem toNat_ofNat_of_le_cap {n : Nat} (h : n ≤ 2 ^ 32) : (BitVec.ofNat 64 n).toNat = n := by
  rw [BitVec.toNat_ofNat]
  omega

theorem toNat_add_one_of_lt {w : Nat} {x : BitVec w} (h : x.toNat + 1 < 2 ^ w) : (x + 1).toNat = x.toNat + 1 := by
  have hone : (1 : BitVec w).toNat = 1 := (BitVec.toNat_ofNat 1 w).trans (Nat.mod_eq_of_lt (by omega))
  rw [BitVec.toNat_add_of_lt (by rwa [hone]), hone]

/-- A run that passes the overflow check of ENC_PIXEL has room for one more pixel (rule R104). -/
theorem succ_toNat_lt_of_ne_max {n : RunLength} (h : n ≠ 0xFFFFFFFF) : n.toNat + 1 < 2 ^ 32 := by
  have hne : n.toNat ≠ 0xFFFFFFFF := fun heq => h (BitVec.eq_of_toNat_eq heq)
  have hlt := n.isLt
  omega

theorem State.Inv.chunkCount_le (hs : s.Inv) : s.chunkCount ≤ 2 ^ 32 :=
  hs.withinCap.trans hs.capBounds.2

theorem State.Inv.succ_chunkCount_le (hs : s.Inv) (room : s.chunkCount ≠ s.chunkCap) : s.chunkCount + 1 ≤ 2 ^ 32 :=
  (Nat.succ_le_of_lt (lt_of_le_of_ne hs.withinCap room)).trans hs.capBounds.2

theorem State.Inv.pixels_store_lt (hs : s.Inv) : Memory.pixels s.store < 2 ^ 64 := by
  have hpix : Memory.pixels s.store ≤ s.chunkCount * (2 ^ 32 - 1) := Memory.pixels_le _
  have hcount := hs.chunkCount_le
  omega

/-- `PIX_IN` counts the pixels of the pass's closed chunks and of its open run. -/
theorem State.Inv.pixIn_le (hs : s.Inv) (ha : s.encActive = true) :
    s.pixIn.toNat ≤ s.chunkCount * (2 ^ 32 - 1) + s.runLen.toNat := by
  have hpix := Memory.pixels_le (s.store.drop s.passBase.toNat)
  have hdrop : (s.store.drop s.passBase.toNat).length ≤ s.chunkCount := by simp [State.chunkCount]
  have hmul := Nat.mul_le_mul_right (2 ^ 32 - 1) hdrop
  have hcounted := hs.pixelsCounted ha
  omega

/-! ### Each counter as a natural number -/

theorem readReg_chunkCount_toNat (hs : s.Inv) : (s.readReg .chunkCount).toNat = s.store.length :=
  toNat_ofNat_of_le_cap hs.chunkCount_le

theorem readReg_chunkCap_toNat (hs : s.Inv) : (s.readReg .chunkCap).toNat = s.chunkCap :=
  toNat_ofNat_of_le_cap hs.capBounds.2

theorem keeps_length_le (m : EncMode) (store : Memory) : (m.keeps store).length ≤ store.length := by
  cases m with
  | clear => exact Nat.zero_le _
  | append => exact le_rfl

theorem execEncBegin_passBase_toNat (hs : s.Inv) (he : s.err = false) (ht : t.err = false) {m : EncMode}
    (h : exec (.encBegin m) s = .next t) : t.passBase.toNat = t.store.length := by
  obtain rfl := execEncBegin_ok he ht h
  exact toNat_ofNat_of_le_cap ((keeps_length_le m s.store).trans hs.chunkCount_le)

/-- `PIX_IN` has room for every pixel the block accepts: a run that is extended is shorter than `2^32 - 1`, and a run
that is closed finds a free entry. At the full store with a run of `2^32 - 1`, where `PIX_IN` may be `2^64 - 1`, no pixel is
accepted. -/
theorem execEncPixel_pixIn_toNat (hs : s.Inv) (he : s.err = false) (ht : t.err = false) {v : Byte}
    (h : exec (.encPixel v) s = .next t) : t.pixIn.toNat = s.pixIn.toNat + 1 := by
  obtain ⟨ha, hok⟩ := execEncPixel_ok he ht h
  have hpix := hs.pixIn_le ha
  have hcount := hs.chunkCount_le
  have hlen := s.runLen.isLt
  have hstep : t.pixIn = s.pixIn + 1 := by
    rcases hok with ⟨-, rfl⟩ | ⟨-, -, -, rfl⟩ | ⟨-, -, -, rfl⟩ <;> rfl
  have hroom : s.pixIn.toNat + 1 < 2 ^ 64 := by
    rcases hok with ⟨hr, -⟩ | ⟨-, -, hl, -⟩ | ⟨-, -, hc, -⟩
    · have hzero : s.runLen.toNat = 0 := by rw [(hs.noRun hr).2]; rfl
      omega
    · have hrun := succ_toNat_lt_of_ne_max hl
      omega
    · have hcount := hs.succ_chunkCount_le hc
      omega
  rw [hstep, toNat_add_one_of_lt hroom]

theorem execEncPixel_runLen_toNat (he : s.err = false) (ht : t.err = false) {v : Byte}
    (h : exec (.encPixel v) s = .next t) (hr : s.runOpen = true) (hv : v = s.runValue) :
    t.runLen.toNat = s.runLen.toNat + 1 := by
  obtain ⟨-, ⟨hr', -⟩ | ⟨-, -, hl, rfl⟩ | ⟨-, hv', -⟩⟩ := execEncPixel_ok he ht h
  · simp [hr] at hr'
  · exact toNat_add_one_of_lt (succ_toNat_lt_of_ne_max hl)
  · exact absurd hv hv'

/-- ENC_END answers the number of entries from `PASS_BASE` to the final count, a true difference by INV4. -/
theorem execEncEnd_data_toNat (hs : s.Inv) (he : s.err = false) (ht : t.err = false) (h : exec .encEnd s = .next t) :
    ∃ d : Word, t.responses = s.responses ++ [⟨0, d⟩] ∧ d.toNat + t.passBase.toNat = t.store.length := by
  obtain ⟨ha, hbase, hresp, hcount⟩ := execEncEnd_ok he ht h
  refine ⟨_, hresp, ?_⟩
  have hle : t.chunkCount ≤ 2 ^ 32 := by
    rcases hcount with ⟨room, hcount⟩ | hcount
    · exact hcount ▸ hs.succ_chunkCount_le room
    · exact hcount ▸ hs.chunkCount_le
  have hbelow : s.passBase.toNat ≤ t.chunkCount := by
    have := hs.baseBelowCount ha
    omega
  have hnat := toNat_ofNat_of_le_cap hle
  rw [hbase, BitVec.toNat_sub_of_le (by rw [BitVec.le_def, hnat]; exact hbelow), hnat]
  exact Nat.sub_add_cancel hbelow

theorem execDecBegin_decTotal_toNat (hs : s.Inv) (he : s.err = false) (ht : t.err = false)
    (h : exec .decBegin s = .next t) : t.decTotal.toNat = Memory.pixels s.store := by
  rw [execDecBegin_ok he ht h, BitVec.toNat_ofNat, Nat.mod_eq_of_lt hs.pixels_store_lt]

theorem execDecPixel_decEmitted_toNat (hs : s.Inv) (he : s.err = false) (ht : t.err = false)
    (h : exec .decPixel s = .next t) : t.decEmitted.toNat = s.decEmitted.toNat + 1 := by
  obtain ⟨hd, c, -, rfl⟩ := execDecPixel_ok he ht h
  obtain ⟨-, hlt⟩ := hs.emittedCounted hd
  have hmax := s.decTotal.isLt
  exact toNat_add_one_of_lt (by omega)

/-- The cursor steps to the next chunk after the last slot of its chunk, and to the next slot otherwise. -/
theorem execDecPixel_cursor_toNat (hs : s.Inv) (he : s.err = false) (ht : t.err = false)
    (h : exec .decPixel s = .next t) {c : Chunk} (hc : s.store[s.decChunk.toNat]? = some c) :
    (s.decOffset.toNat + 1 = c.run.toNat → t.decChunk.toNat = s.decChunk.toNat + 1 ∧ t.decOffset.toNat = 0) ∧
      (s.decOffset.toNat + 1 ≠ c.run.toNat →
        t.decChunk.toNat = s.decChunk.toNat ∧ t.decOffset.toNat = s.decOffset.toNat + 1) := by
  obtain ⟨hd, c', hc', rfl⟩ := execDecPixel_ok he ht h
  obtain rfl : c' = c := Option.some.inj (hc'.symm.trans hc)
  obtain ⟨c'', hc'', hoff⟩ := hs.cursorInStore hd
  obtain rfl : c'' = c' := Option.some.inj (hc''.symm.trans hc')
  have hbelow : s.decChunk.toNat < s.chunkCount := (List.getElem?_eq_some_iff.mp hc).1
  have hcount := hs.chunkCount_le
  have hrun := c''.run.isLt
  constructor
  · intro hlast
    rw [State.answers_decChunk, State.advanceCursor_decChunk, if_pos hlast, State.answers_decOffset,
      State.advanceCursor_decOffset, if_pos hlast]
    exact ⟨toNat_add_one_of_lt (by omega), rfl⟩
  · intro hinside
    rw [State.answers_decChunk, State.advanceCursor_decChunk, if_neg hinside, State.answers_decOffset,
      State.advanceCursor_decOffset, if_neg hinside]
    exact ⟨rfl, toNat_add_one_of_lt (by omega)⟩

theorem execChunkLoad_data_toNat (hs : s.Inv) (he : s.err = false) (ht : t.err = false) {v : Byte} {n : RunLength}
    (h : exec (.chunkLoad v n) s = .next t) :
    ∃ d : Word, t.responses = s.responses ++ [⟨0, d⟩] ∧ d.toNat = t.store.length := by
  obtain ⟨room, rfl⟩ := execChunkLoad_ok he ht h
  refine ⟨_, rfl, ?_⟩
  rw [toNat_ofNat_of_le_cap (hs.succ_chunkCount_le room)]
  simp [State.chunkCount]

/-- Settles O41, counter by counter: the invariants bound each one, and the commands' checks refuse what would not fit. -/
theorem countersNeverWrap : Obligations.CountersNeverWrap := by
  intro s t hs he ht
  exact ⟨⟨readReg_chunkCount_toNat hs, readReg_chunkCap_toNat hs⟩,
    fun m h => execEncBegin_passBase_toNat hs he ht h,
    fun v h => ⟨execEncPixel_pixIn_toNat hs he ht h, execEncPixel_runLen_toNat he ht h⟩,
    execEncEnd_data_toNat hs he ht,
    execDecBegin_decTotal_toNat hs he ht,
    fun h => ⟨execDecPixel_decEmitted_toNat hs he ht h, fun c hc => execDecPixel_cursor_toNat hs he ht h hc⟩,
    fun v n h => execChunkLoad_data_toNat hs he ht h⟩

end Sys2Proof.Machine
end

section
/-! PROOFS. The state: what a command can do to it, and the invariants of rule R45 as kept by every step
(InvariantsHoldAtReset, StepKeepsTheInvariants, ReachableStatesMeetTheInvariants). -/

namespace Sys2Proof.Machine

variable {s t : State}

/-! ### What a command can do, all commands together -/

/-- The pass ENC_BEGIN opens (rule R103). -/
def State.beginPass (s : State) (m : EncMode) : State :=
  { s with
    store := m.keeps s.store
    passBase := BitVec.ofNat 64 (m.keeps s.store).length
    append := decide (m = .append)
    encActive := true
    runOpen := false
    runValue := 0
    runLen := 0
    pixIn := 0 }

/-- The block once its pass is closed (rule R105); a run still open was written to the store before. -/
def State.endPass (s : State) : State := { s.closeRun with encActive := false }

/-- The decode DEC_BEGIN opens, or ends at once when there are no pixels (rule R121). -/
def State.beginDecode (s : State) : State :=
  { s with
    decTotal := BitVec.ofNat 64 (Memory.pixels s.store)
    decEmitted := 0
    decChunk := 0
    decOffset := 0
    decActive := decide (BitVec.ofNat 64 (Memory.pixels s.store) ≠ 0)
    decDone := decide (BitVec.ofNat 64 (Memory.pixels s.store) = 0) }

/-- What command `i` can do at `s`: it is blocked, faults, or has its effect, each with the checks that lead there. The data
of a read is left to its own inversion lemma. -/
inductive Effect (s : State) : Instr → State → Prop
  | blocked (i : Instr) (inErr : s.err = true) : Effect s i (s.answers 0x08 0)
  | faulted (i : Instr) (c : Cause) (noErr : s.err = false) (raised : i.wf = true → c.raisedBy i = true) :
      Effect s i (s.faulted c.value (encode i))
  | readDone (i : Instr) (data : Word) (read : i.isRead = true) : Effect s i (s.answers 0 data)
  | passBegun (m : EncMode) (noErr : s.err = false) (noPass : s.encActive = false) (noDecode : s.decActive = false) :
      Effect s (.encBegin m) ((s.beginPass m).answers 0 (BitVec.ofNat 64 (m.keeps s.store).length))
  | runStarted (v : Byte) (noErr : s.err = false) (inPass : s.encActive = true) (noRun : s.runOpen = false) :
      Effect s (.encPixel v) ((s.startRun v).answers 0 0)
  | runExtended (v : Byte) (noErr : s.err = false) (inPass : s.encActive = true) (inRun : s.runOpen = true)
      (same : v = s.runValue) (room : s.runLen ≠ 0xFFFFFFFF) : Effect s (.encPixel v) (s.extendRun.answers 0 0)
  | runClosed (v : Byte) (noErr : s.err = false) (inPass : s.encActive = true) (inRun : s.runOpen = true)
      (differs : v ≠ s.runValue) (room : s.chunkCount ≠ s.chunkCap) :
      Effect s (.encPixel v) (((s.emitChunk s.runValue s.runLen).startRun v).answers 0 1)
  | passFlushed (noErr : s.err = false) (inPass : s.encActive = true) (inRun : s.runOpen = true)
      (room : s.chunkCount ≠ s.chunkCap) :
      Effect s .encEnd ((s.emitChunk s.runValue s.runLen).endPass.answers 0
        (BitVec.ofNat 64 (s.chunkCount + 1) - s.passBase))
  | passEnded (noErr : s.err = false) (inPass : s.encActive = true) (noRun : s.runOpen = false) :
      Effect s .encEnd (s.endPass.answers 0 (BitVec.ofNat 64 s.chunkCount - s.passBase))
  | decodeBegun (noErr : s.err = false) (noPass : s.encActive = false) (noDecode : s.decActive = false) :
      Effect s .decBegin (s.beginDecode.answers 0 (BitVec.ofNat 64 (Memory.pixels s.store)))
  | pixelEmitted (c : Chunk) (noErr : s.err = false) (inDecode : s.decActive = true)
      (entry : Memory.readEntry s.store s.decChunk.toNat = some c) :
      Effect s .decPixel ((s.advanceCursor c.run).answers 0 (c.value.setWidth 64))
  | chunkLoaded (v : Byte) (n : RunLength) (noErr : s.err = false) (noPass : s.encActive = false)
      (noDecode : s.decActive = false) (positive : n ≠ 0) (room : s.chunkCount ≠ s.chunkCap) :
      Effect s (.chunkLoad v n) ((s.emitChunk v n).answers 0 (BitVec.ofNat 64 (s.chunkCount + 1)))
  | storeCleared (noErr : s.err = false) (noPass : s.encActive = false) (noDecode : s.decActive = false) :
      Effect s .chunkClear (s.clearStore.answers 0 0)
  | blockReset : Effect s .softReset (s.applyReset.answers 0 0)

/-- The inversion lemmas of the single commands, as one. -/
theorem exec_effect {i : Instr} (h : exec i s = .next t) : Effect s i t := by
  cases i with
  | nop => obtain rfl := execNop_next h; exact .readDone _ _ rfl
  | encBegin m =>
    rcases execEncBegin_next h with ⟨he, rfl⟩ | ⟨he, ⟨-, rfl⟩ | ⟨-, -, rfl⟩ | ⟨hd, ha, _, rfl, rfl⟩⟩
    · exact .blocked _ he
    · exact .faulted _ .busy he fun _ => rfl
    · exact .faulted _ .sequence he fun _ => rfl
    · exact .passBegun m he ha hd
  | encPixel v =>
    rcases execEncPixel_next h with ⟨he, rfl⟩ | ⟨he, ⟨-, rfl⟩ | ⟨ha, hr, rfl⟩ | ⟨-, -, -, -, rfl⟩ | ⟨ha, hr, hv, hl, rfl⟩ |
      ⟨-, -, -, -, rfl⟩ | ⟨ha, hr, hv, hc, rfl⟩⟩
    · exact .blocked _ he
    · exact .faulted _ .sequence he fun _ => rfl
    · exact .runStarted v he ha hr
    · exact .faulted _ .runOverflow he fun _ => rfl
    · exact .runExtended v he ha hr hv hl
    · exact .faulted _ .storeFull he fun _ => rfl
    · exact .runClosed v he ha hr hv hc
  | encEnd =>
    rcases execEncEnd_next h with ⟨he, rfl⟩ | ⟨he, ⟨-, rfl⟩ | ⟨-, -, -, rfl⟩ | ⟨ha, hr, hc, rfl⟩ | ⟨ha, hr, rfl⟩⟩
    · exact .blocked _ he
    · exact .faulted _ .sequence he fun _ => rfl
    · exact .faulted _ .storeFull he fun _ => rfl
    · exact .passFlushed he ha hr hc
    · exact .passEnded he ha hr
  | decBegin =>
    rcases execDecBegin_next h with ⟨he, rfl⟩ | ⟨he, ⟨-, rfl⟩ | ⟨-, -, rfl⟩ | ⟨ha, hd, _, rfl, rfl⟩⟩
    · exact .blocked _ he
    · exact .faulted _ .busy he fun _ => rfl
    · exact .faulted _ .sequence he fun _ => rfl
    · exact .decodeBegun he ha hd
  | decPixel =>
    rcases execDecPixel_next h with ⟨he, rfl⟩ | ⟨he, ⟨-, rfl⟩ | ⟨hd, c, hc, rfl⟩⟩
    · exact .blocked _ he
    · exact .faulted _ .sequence he fun _ => rfl
    · exact .pixelEmitted c he hd hc
  | chunkLoad v n =>
    rcases execChunkLoad_next h with ⟨he, rfl⟩ | ⟨he, ⟨-, rfl⟩ | ⟨ha, hd, ⟨-, rfl⟩ | ⟨-, -, rfl⟩ | ⟨hn, hc, rfl⟩⟩⟩
    · exact .blocked _ he
    · exact .faulted _ .busy he fun _ => rfl
    · exact .faulted _ .zeroRun he fun _ => rfl
    · exact .faulted _ .storeFull he fun _ => rfl
    · exact .chunkLoaded v n he ha hd hn hc
  | chunkRead j =>
    rcases execChunkRead_next h with ⟨he, rfl⟩ | ⟨he, ⟨-, rfl⟩ | ⟨c, -, rfl⟩⟩
    · exact .blocked _ he
    · exact .faulted _ .indexRange he fun _ => rfl
    · exact .readDone _ _ rfl
  | chunkClear =>
    rcases execChunkClear_next h with ⟨he, rfl⟩ | ⟨he, ⟨-, rfl⟩ | ⟨ha, hd, rfl⟩⟩
    · exact .blocked _ he
    · exact .faulted _ .busy he fun _ => rfl
    · exact .storeCleared he ha hd
  | regRead r =>
    rcases execRegRead_next h with ⟨reg, -, rfl⟩ | ⟨-, he, rfl⟩ | ⟨hr, he, rfl⟩
    · exact .readDone _ _ rfl
    · exact .blocked _ he
    · refine .faulted _ .illegalCmd he fun hwf => ?_
      rw [Instr.wf, decide_eq_true_iff, ← regOfNumber_isSome, hr] at hwf
      cases hwf
  | softReset => obtain rfl := execSoftReset_next h; exact .blockReset

/-! ### The invariants at reset -/

theorem resetWith_inv {cap : Nat} (low : 1 ≤ cap) (high : cap ≤ 2 ^ 32) : (State.resetWith cap).Inv where
  capBounds := ⟨low, high⟩
  oneEngine := nofun
  openRun := nofun
  noRun _ := ⟨rfl, rfl⟩
  positiveRuns _ _ := nofun
  withinCap := Nat.zero_le _
  baseBelowCount := nofun
  pixelsCounted := nofun
  maximalChunks := nofun
  maximalOpenRun := nofun
  freshPass := nofun
  decodeTotal := nofun
  cursorInStore := nofun
  emittedCounted := nofun
  noError _ := ⟨rfl, rfl⟩
  errorCause := nofun

/-- Settles O37: the open capacity lies within the bounds of rule R10 too. -/
theorem invariantsHoldAtReset : Obligations.InvariantsHoldAtReset :=
  ⟨fun _ => resetWith_inv, resetWith_inv (Nat.le_add_left _ _) Config.spareEntries.isLt⟩

/-! ### The invariants speak of the block alone -/

theorem State.Inv.of_sameBlock (hs : s.Inv) (h : s.SameBlock t) : t.Inv := by
  rw [← (h : { s with inputs := t.inputs, responses := t.responses, freeCount := t.freeCount } = t)]
  exact { hs with }

theorem State.Inv.answers (hs : s.Inv) (code : Byte) (data : Word) : (s.answers code data).Inv :=
  hs.of_sameBlock rfl

theorem State.Inv.applyReset (hs : s.Inv) : s.applyReset.Inv :=
  (resetWith_inv hs.capBounds.1 hs.capBounds.2).of_sameBlock rfl

/-- Fault entry touches INV8 only, and writes one of the causes (rule R161). -/
theorem State.Inv.faulted (hs : s.Inv) (c : Cause) (cmd : Word) : (s.faulted c.value cmd).Inv :=
  { hs with
    noError := nofun
    errorCause := fun _ => ⟨c, rfl⟩ }

/-! ### The store of an idle block -/

theorem Memory.positiveRuns_of_wf {cap : Nat} {m : Memory} (h : Memory.wf cap m = true) {i : Nat} {c : Chunk}
    (hc : Memory.readEntry m i = some c) : 1 ≤ c.run.toNat :=
  Nat.one_le_iff_ne_zero.mpr fun h0 =>
    ((Memory.wf_iff cap m).mp h).2 c (Memory.readEntry_mem hc) (BitVec.eq_of_toNat_eq h0)

theorem State.Inv.store_wf (hs : s.Inv) : Memory.wf s.chunkCap s.store = true := by
  refine (Memory.wf_iff _ _).mpr ⟨hs.withinCap, fun c hc h0 => ?_⟩
  obtain ⟨i, hi⟩ := List.mem_iff_getElem?.mp hc
  have := hs.positiveRuns i c hi
  simp [h0] at this

/-- INV5 to INV7 bind the store to an open engine only: without one, any store in its form will do. -/
theorem State.Inv.withStore (hs : s.Inv) (noPass : s.encActive = false) (noDecode : s.decActive = false)
    {m : Memory} (h : Memory.wf s.chunkCap m = true) : State.Inv { s with store := m } :=
  { hs with
    positiveRuns := fun _ _ => Memory.positiveRuns_of_wf h
    withinCap := ((Memory.wf_iff _ _).mp h).1
    baseBelowCount := by simp [noPass]
    pixelsCounted := by simp [noPass]
    maximalChunks := by simp [noPass]
    maximalOpenRun := by simp [noPass]
    freshPass := by simp [noPass]
    decodeTotal := by simp [noDecode]
    cursorInStore := by simp [noDecode]
    emittedCounted := by simp [noDecode] }

theorem State.Inv.emitChunk_wf (hs : s.Inv) (room : s.chunkCount ≠ s.chunkCap) {v : Byte} {n : RunLength}
    (positive : n ≠ 0) : Memory.wf s.chunkCap (s.emitChunk v n).store = true :=
  State.emitChunk_wf hs.store_wf (lt_of_le_of_ne hs.withinCap room) positive

theorem keeps_wf (m : EncMode) {cap : Nat} {store : Memory} (h : Memory.wf cap store = true) :
    Memory.wf cap (m.keeps store) = true := by
  cases m with
  | clear => exact Memory.wf_nil cap
  | append => exact h

/-! ### A pass keeps the invariants (INV2 to INV6) -/

theorem State.Inv.noDecode_of_pass (hs : s.Inv) (inPass : s.encActive = true) : s.decActive = false :=
  Bool.eq_false_iff.mpr fun hd => hs.oneEngine ⟨inPass, hd⟩

theorem State.Inv.runLen_ne_zero (hs : s.Inv) (inRun : s.runOpen = true) : s.runLen ≠ 0 := by
  intro h0
  have := (hs.openRun inRun).2
  simp [h0] at this

/-- A new pass stands at the end of the chunks it keeps: it has no chunks and no pixels yet. -/
theorem State.Inv.beginPass (hs : s.Inv) (noPass : s.encActive = false) (noDecode : s.decActive = false)
    (m : EncMode) : (s.beginPass m).Inv :=
  have kept := hs.withStore noPass noDecode (keeps_wf m hs.store_wf)
  have base : (s.beginPass m).passBase.toNat = (s.beginPass m).chunkCount := toNat_ofNat_of_le_cap kept.chunkCount_le
  have noChunks (i : Nat) (hi : (s.beginPass m).passBase.toNat ≤ i) :
      Memory.readEntry (s.beginPass m).store i = none :=
    (Memory.readEntry_eq_none _ _).mpr (base.ge.trans hi)
  { kept with
    oneEngine := by simp [State.beginPass, noDecode]
    openRun := nofun
    noRun := fun _ => ⟨rfl, rfl⟩
    baseBelowCount := fun _ => base.le
    pixelsCounted := fun _ => by
      rw [base, State.chunkCount, List.drop_length]
      rfl
    maximalChunks := fun _ i _ _ hi hc => by simp [noChunks i hi] at hc
    maximalOpenRun := nofun
    freshPass := fun _ _ => base.ge }

/-- The first run of a pass: there is no closed chunk it could equal (`freshPass`). -/
theorem State.Inv.startRun (hs : s.Inv) (inPass : s.encActive = true) (noRun : s.runOpen = false) (v : Byte)
    (counted : (s.pixIn + 1).toNat = s.pixIn.toNat + 1) : (s.startRun v).Inv :=
  { hs with
    openRun := fun _ => ⟨inPass, le_rfl⟩
    noRun := nofun
    pixelsCounted := fun _ => by
      have hpix := hs.pixelsCounted inPass
      rw [(hs.noRun noRun).2] at hpix
      exact counted.trans (congrArg (· + 1) hpix)
    maximalOpenRun := fun _ _ closed => absurd closed (hs.freshPass inPass noRun).not_gt
    freshPass := nofun }

theorem State.Inv.extendRun (hs : s.Inv) (inPass : s.encActive = true) (inRun : s.runOpen = true)
    (counted : (s.pixIn + 1).toNat = s.pixIn.toNat + 1) (longer : (s.runLen + 1).toNat = s.runLen.toNat + 1) :
    s.extendRun.Inv :=
  { hs with
    openRun := fun _ => ⟨inPass, by simp only [State.extendRun_runLen, longer]; omega⟩
    noRun := fun noRun => by simp [inRun] at noRun
    pixelsCounted := fun _ => by
      have hpix := hs.pixelsCounted inPass
      simp only [State.extendRun_pixIn, State.extendRun_store, State.extendRun_passBase, State.extendRun_runLen, counted,
        longer]
      omega
    freshPass := fun _ noRun => by simp [inRun] at noRun }

/-- What is read after the one write: an entry that was there, or the one written. -/
theorem Memory.readEntry_appendEntry_cases {m : Memory} {c d : Chunk} {i : Nat}
    (h : Memory.readEntry (Memory.appendEntry m c) i = some d) :
    (i < m.length ∧ Memory.readEntry m i = some d) ∨ (i = m.length ∧ d = c) := by
  have hi : i < (Memory.appendEntry m c).length := (Memory.readEntry_isSome _ _).mp (by rw [h]; rfl)
  rw [Memory.appendEntry, List.length_append, List.length_singleton] at hi
  rcases Nat.lt_succ_iff_lt_or_eq.mp hi with hlt | rfl
  · exact .inl ⟨hlt, by rwa [Memory.readEntry_appendEntry_of_lt c hlt] at h⟩
  · rw [Memory.readEntry_appendEntry_self] at h
    exact .inr ⟨rfl, (Option.some.inj h).symm⟩

/-- INV6 of the closed chunks after a boundary: the chunk written takes its value from the open run. -/
theorem State.Inv.emitChunk_maximalChunks (hs : s.Inv) (inPass : s.encActive = true) (inRun : s.runOpen = true)
    {i : Nat} {c d : Chunk} (hi : s.passBase.toNat ≤ i)
    (hc : Memory.readEntry (s.emitChunk s.runValue s.runLen).store i = some c)
    (hd : Memory.readEntry (s.emitChunk s.runValue s.runLen).store (i + 1) = some d) : c.value ≠ d.value := by
  rcases Memory.readEntry_appendEntry_cases hc with ⟨hlt, hc⟩ | ⟨rfl, rfl⟩
  · rcases Memory.readEntry_appendEntry_cases hd with ⟨-, hd⟩ | ⟨hlast, rfl⟩
    · exact hs.maximalChunks inPass i c d hi hc hd
    · refine hs.maximalOpenRun inPass inRun (hi.trans_lt hlt) c ?_
      rwa [State.chunkCount, ← hlast, Nat.add_sub_cancel]
  · rcases Memory.readEntry_appendEntry_cases hd with ⟨hlt, -⟩ | ⟨hlast, -⟩ <;> omega

/-- A boundary: the open run becomes the pass's last chunk, and the pixel that differs from it starts the next run. -/
theorem State.Inv.closeRun_startRun (hs : s.Inv) (inPass : s.encActive = true) (inRun : s.runOpen = true)
    (room : s.chunkCount ≠ s.chunkCap) {v : Byte} (differs : v ≠ s.runValue)
    (counted : (s.pixIn + 1).toNat = s.pixIn.toNat + 1) : ((s.emitChunk s.runValue s.runLen).startRun v).Inv :=
  have wf := hs.emitChunk_wf room (v := s.runValue) (hs.runLen_ne_zero inRun)
  have noDecode := hs.noDecode_of_pass inPass
  { hs with
    openRun := fun _ => ⟨inPass, le_rfl⟩
    noRun := nofun
    positiveRuns := fun _ _ => Memory.positiveRuns_of_wf wf
    withinCap := ((Memory.wf_iff _ _).mp wf).1
    baseBelowCount := fun _ => by
      have := hs.baseBelowCount inPass
      simp only [State.chunkCount, State.startRun_store, State.emitChunk_store, List.length_append] at this ⊢
      exact Nat.le_add_right_of_le this
    pixelsCounted := fun _ => by
      have hpix := hs.pixelsCounted inPass
      rw [State.startRun_pixIn, State.emitChunk_pixIn, counted, hpix]
      simp [List.drop_append_of_le_length (hs.baseBelowCount inPass)]
    maximalChunks := fun _ _ _ _ => hs.emitChunk_maximalChunks inPass inRun
    maximalOpenRun := fun _ _ _ c hc => by
      have hlast : c = ⟨s.runValue, s.runLen⟩ := by
        simpa [State.chunkCount, Memory.readEntry] using hc.symm
      exact hlast ▸ differs.symm
    freshPass := nofun
    decodeTotal := by simp [noDecode]
    cursorInStore := by simp [noDecode]
    emittedCounted := by simp [noDecode] }

/-- Without a pass no clause but INV2's speaks of the accumulator or the pass. -/
theorem State.Inv.endPass (hs : s.Inv) : s.endPass.Inv :=
  { hs with
    oneEngine := nofun
    openRun := nofun
    noRun := fun _ => ⟨rfl, rfl⟩
    baseBelowCount := nofun
    pixelsCounted := nofun
    maximalChunks := nofun
    maximalOpenRun := nofun
    freshPass := nofun }

/-- The flush of ENC_END writes as CHUNK_LOAD does: to the store of a block whose pass is closed. -/
theorem State.Inv.flushPass (hs : s.Inv) (inPass : s.encActive = true) (inRun : s.runOpen = true)
    (room : s.chunkCount ≠ s.chunkCap) : (s.emitChunk s.runValue s.runLen).endPass.Inv :=
  hs.endPass.withStore rfl (hs.noDecode_of_pass inPass) (hs.emitChunk_wf room (hs.runLen_ne_zero inRun))

/-! ### A decode keeps the invariants (INV7) -/

/-- The cursor stands at slot `offset` of entry `chunk`, and `emitted` is the number of pixels before that place. -/
def Memory.CursorAt (m : Memory) (chunk offset emitted : Nat) : Prop :=
  (∃ c, Memory.readEntry m chunk = some c ∧ offset < c.run.toNat) ∧
    emitted = Memory.pixels (m.take chunk) + offset

theorem State.Inv.cursorAt (hs : s.Inv) (inDecode : s.decActive = true) :
    Memory.CursorAt s.store s.decChunk.toNat s.decOffset.toNat s.decEmitted.toNat :=
  ⟨hs.cursorInStore inDecode, (hs.emittedCounted inDecode).1⟩

theorem Memory.pixels_take_succ {m : Memory} {k : Nat} {c : Chunk} (hc : Memory.readEntry m k = some c) :
    Memory.pixels (m.take (k + 1)) = Memory.pixels (m.take k) + c.run.toNat := by
  rw [List.take_add_one, Memory.pixels_append, show m[k]? = some c from hc, Option.toList_some, Memory.pixels_cons,
    Memory.pixels_nil, Nat.add_zero]

/-- Before the last slot of its chunk the cursor steps to the next slot. -/
theorem Memory.CursorAt.nextSlot {m : Memory} {k o e : Nat} (h : Memory.CursorAt m k o e) {c : Chunk}
    (hc : Memory.readEntry m k = some c) (inside : o + 1 ≠ c.run.toNat) : Memory.CursorAt m k (o + 1) (e + 1) := by
  obtain ⟨⟨d, hd, hlt⟩, he⟩ := h
  obtain rfl : d = c := Option.some.inj (hd.symm.trans hc)
  exact ⟨⟨d, hd, by omega⟩, by omega⟩

/-- After the last slot of its chunk it steps to the first slot of the next one, which is there while pixels remain. -/
theorem Memory.CursorAt.nextChunk {m : Memory} {k o e : Nat} (h : Memory.CursorAt m k o e) {c : Chunk}
    (hc : Memory.readEntry m k = some c) (last : o + 1 = c.run.toNat) (more : e + 1 < Memory.pixels m)
    (positive : ∀ i d, Memory.readEntry m i = some d → 1 ≤ d.run.toNat) : Memory.CursorAt m (k + 1) 0 (e + 1) := by
  have he : e + 1 = Memory.pixels (m.take (k + 1)) := by
    rw [Memory.pixels_take_succ hc, h.2]
    omega
  have hk : k + 1 < m.length := by
    by_contra hge
    rw [List.take_of_length_le (Nat.le_of_not_lt hge)] at he
    omega
  obtain ⟨d, hd⟩ := Option.isSome_iff_exists.mp ((Memory.readEntry_isSome m (k + 1)).mpr hk)
  exact ⟨⟨d, hd, positive _ _ hd⟩, he⟩

/-- A store with pixels has a first chunk, and its first slot is where a decode begins. -/
theorem Memory.cursorAt_start {m : Memory} (pixels : Memory.pixels m ≠ 0)
    (positive : ∀ i d, Memory.readEntry m i = some d → 1 ≤ d.run.toNat) : Memory.CursorAt m 0 0 0 := by
  cases m with
  | nil => exact absurd rfl pixels
  | cons c m => exact ⟨⟨c, rfl, positive 0 c rfl⟩, rfl⟩

theorem State.Inv.beginDecode (hs : s.Inv) (noPass : s.encActive = false) : s.beginDecode.Inv :=
  have total : s.beginDecode.decTotal.toNat = Memory.pixels s.store :=
    (BitVec.toNat_ofNat _ _).trans (Nat.mod_eq_of_lt hs.pixels_store_lt)
  have opened (hd : s.beginDecode.decActive = true) : Memory.pixels s.store ≠ 0 := fun h0 =>
    of_decide_eq_true hd (congrArg (BitVec.ofNat 64) h0)
  have start (hd : s.beginDecode.decActive = true) := Memory.cursorAt_start (opened hd) hs.positiveRuns
  { hs with
    oneEngine := by simp [State.beginDecode, noPass]
    decodeTotal := fun _ => total
    cursorInStore := fun hd => (start hd).1
    emittedCounted := fun hd => ⟨(start hd).2, total.symm ▸ Nat.pos_of_ne_zero (opened hd)⟩ }

/-- After a DEC_PIXEL that was not the last the cursor stands one pixel further, and a pixel remains. -/
theorem execDecPixel_cursorAt (hs : s.Inv) (he : s.err = false) (ht : t.err = false) (h : exec .decPixel s = .next t)
    (notLast : t.decEmitted ≠ s.decTotal) :
    Memory.CursorAt s.store t.decChunk.toNat t.decOffset.toNat t.decEmitted.toNat ∧
      t.decEmitted.toNat < s.decTotal.toNat := by
  obtain ⟨inDecode, c, hc, -⟩ := execDecPixel_ok he ht h
  obtain ⟨toNextChunk, toNextSlot⟩ := execDecPixel_cursor_toNat hs he ht h hc
  have emitted := execDecPixel_decEmitted_toNat hs he ht h
  have more : t.decEmitted.toNat < s.decTotal.toNat := by
    have hlt := (hs.emittedCounted inDecode).2
    have hne := mt BitVec.eq_of_toNat_eq notLast
    omega
  refine ⟨?_, more⟩
  rw [emitted]
  by_cases last : s.decOffset.toNat + 1 = c.run.toNat
  · obtain ⟨hchunk, hoffset⟩ := toNextChunk last
    rw [hchunk, hoffset]
    rw [emitted, hs.decodeTotal inDecode] at more
    exact (hs.cursorAt inDecode).nextChunk hc last more hs.positiveRuns
  · obtain ⟨hchunk, hoffset⟩ := toNextSlot last
    rw [hchunk, hoffset]
    exact (hs.cursorAt inDecode).nextSlot hc last

/-- The last pixel closes the decode, and INV7 with it; any other moves the cursor on. -/
theorem execDecPixel_keeps_inv (hs : s.Inv) (he : s.err = false) (ht : t.err = false)
    (h : exec .decPixel s = .next t) : t.Inv := by
  obtain ⟨inDecode, c, -, rfl⟩ := execDecPixel_ok he ht h
  have cursor (stillOpen : (s.advanceCursor c.run).decActive = true) :=
    execDecPixel_cursorAt hs he ht h fun last => Bool.false_ne_true ((if_pos last).symm.trans stillOpen)
  exact { hs with
    oneEngine := fun both => hs.oneEngine ⟨both.1, inDecode⟩
    decodeTotal := fun _ => hs.decodeTotal inDecode
    cursorInStore := fun stillOpen => (cursor stillOpen).1.1
    emittedCounted := fun stillOpen => ⟨(cursor stillOpen).1.2, (cursor stillOpen).2⟩ }

/-! ### Every step keeps the invariants -/

theorem exec_keeps_inv {i : Instr} (hs : s.Inv) (h : exec i s = .next t) : t.Inv := by
  cases exec_effect h with
  | blocked => exact hs.answers ..
  | faulted _ c => exact hs.faulted c _
  | readDone => exact hs.answers ..
  | passBegun m _ noPass noDecode => exact (hs.beginPass noPass noDecode m).answers ..
  | runStarted v noErr inPass noRun =>
    exact (hs.startRun inPass noRun v (execEncPixel_pixIn_toNat hs noErr (by exact noErr) h)).answers ..
  | runExtended v noErr inPass inRun same =>
    exact (hs.extendRun inPass inRun (execEncPixel_pixIn_toNat hs noErr (by exact noErr) h)
      (execEncPixel_runLen_toNat noErr (by exact noErr) h inRun same)).answers ..
  | runClosed v noErr inPass inRun differs room =>
    exact (hs.closeRun_startRun inPass inRun room differs
      (execEncPixel_pixIn_toNat hs noErr (by exact noErr) h)).answers ..
  | passFlushed _ inPass inRun room => exact (hs.flushPass inPass inRun room).answers ..
  | passEnded => exact hs.endPass.answers ..
  | decodeBegun _ noPass => exact (hs.beginDecode noPass).answers ..
  | pixelEmitted c noErr => exact execDecPixel_keeps_inv hs noErr noErr h
  | chunkLoaded v n _ noPass noDecode positive room =>
    exact (hs.withStore noPass noDecode (hs.emitChunk_wf room positive)).answers ..
  | storeCleared _ noPass noDecode => exact (hs.withStore noPass noDecode (Memory.wf_nil _)).answers ..
  | blockReset => exact hs.applyReset.answers ..

theorem carryOut_keeps_inv {cmd : Word} (hs : s.Inv) (h : carryOut cmd s = .next t) : t.Inv := by
  unfold carryOut at h
  split at h
  · exact exec_keeps_inv hs h
  · rcases filtered_next h with ⟨-, rfl⟩ | ⟨-, h⟩
    · exact hs.answers ..
    · obtain rfl := Host.Outcome.next.inj h
      exact hs.faulted .illegalCmd cmd

theorem takeInput_keeps_inv {i : Input} (hs : s.Inv) (h : takeInput i s = .next t) : t.Inv := by
  cases i with
  | command cmd => exact carryOut_keeps_inv hs h
  | hardReset =>
    obtain rfl := Host.Outcome.next.inj h
    exact hs.applyReset
  | resetDuring cmd =>
    obtain rfl := Host.Outcome.next.inj h
    exact hs.applyReset.of_sameBlock rfl

/-- Settles O38: each effect of a command keeps the invariants, and so do reset and a step with no input. -/
theorem stepKeepsTheInvariants : Obligations.StepKeepsTheInvariants := by
  intro s t hs h
  cases hin : s.inputs with
  | nil =>
    obtain rfl := Host.Outcome.next.inj ((step_idle hin).symm.trans h)
    exact hs
  | cons i rest =>
    rw [step_input hin] at h
    exact takeInput_keeps_inv (s := { s with inputs := rest }) (hs.of_sameBlock rfl) h

/-! ### Runs -/

/-- What every step keeps, every run keeps. -/
theorem run_keeps {M : Host.Core} {P : M.State → Prop} (hstep : ∀ s t, P s → M.step s = .next t → P t) (n : Nat) :
    ∀ {s t : M.State}, P s → M.run n s = .next t → P t := by
  induction n with
  | zero =>
    intro s t hs h
    obtain rfl := Host.Outcome.next.inj h
    exact hs
  | succ n ih =>
    intro s t hs h
    unfold Host.Core.run at h
    split at h
    · next s' hs' => exact ih (hstep s s' hs hs') h
    · cases h
    · cases h

/-- Settles O39: the invariants hold at reset, whatever the host will drive, and along every run. -/
theorem reachableStatesMeetTheInvariants : Obligations.ReachableStatesMeetTheInvariants :=
  fun _ _ n _ low high =>
    run_keeps (M := Sys2Proof.core) stepKeepsTheInvariants n ((resetWith_inv low high).of_sameBlock rfl)

end Sys2Proof.Machine
end

section
/-! PROOFS. The registers: as they read (StatusBitsAreTheFlags, ResetRegistersRead, RegReadFollowsItsRule, NoStateIsHidden),
and which commands write them (RegistersAreWrittenOnlyByTheirCommands). -/

namespace Sys2Proof.Machine

variable {s t : State}

/-! ### STATUS (rule R42) -/

/-- Settles O23: bit `k` of the word is the flag `k` places from the right, and the flags are six. -/
theorem statusBitsAreTheFlags : Obligations.StatusBitsAreTheFlags := by
  intro s
  have bit (k : Nat) : (s.readReg .status).getLsbD k =
      (decide (k < 64) && (BitVec.ofBool s.err ++ BitVec.ofBool s.decDone ++ BitVec.ofBool s.decActive ++
        BitVec.ofBool s.append ++ BitVec.ofBool s.runOpen ++ BitVec.ofBool s.encActive).getLsbD k) :=
    BitVec.getLsbD_setWidth ..
  refine ⟨?_, ?_, ?_, ?_, ?_, ?_, fun k hk => ?beyond⟩
  case beyond => rw [bit, BitVec.getLsbD_of_ge _ _ hk, Bool.and_false]
  all_goals
    simp only [bit, BitVec.getLsbD_append, BitVec.getLsbD_ofBool]
    simp

/-- Six flags put side by side, the leftmost most significant, as a number. -/
theorem flagsWord_eq_ofNat : ∀ e d c b r a : Bool,
    (BitVec.ofBool e ++ BitVec.ofBool d ++ BitVec.ofBool c ++ BitVec.ofBool b ++ BitVec.ofBool r ++
      BitVec.ofBool a).setWidth 64 =
    BitVec.ofNat 64 (a.toNat + 2 * r.toNat + 4 * b.toNat + 8 * c.toNat + 16 * d.toNat + 32 * e.toNat) := by
  decide

theorem statusWord_eq_ofNat (s : State) : statusWord s = BitVec.ofNat 64
    (s.encActive.toNat + 2 * s.runOpen.toNat + 4 * s.append.toNat + 8 * s.decActive.toNat + 16 * s.decDone.toNat
      + 32 * s.err.toNat) :=
  flagsWord_eq_ofNat ..

/-! ### The registers after reset -/

/-- Settles O10: each register at its value of rule R190. -/
theorem resetRegistersRead : Obligations.ResetRegistersRead := by
  refine ⟨⟨rfl, rfl, rfl⟩, rfl, rfl, rfl, fun r hid hcap => ?_⟩
  cases r with
  | id => exact absurd rfl hid
  | chunkCap => exact absurd rfl hcap
  | _ => rfl

/-! ### REG_READ (rules R43, R143) -/

theorem exec_regRead_of_number {r : Byte} {reg : Reg} (h : regOfNumber r = some reg) :
    exec (.regRead r) s = .next (s.answers 0 (s.readReg reg)) := by
  change execRegRead r s = _
  rw [execRegRead, h]
  rfl

theorem exec_regRead_of_reserved {r : Byte} (h : 14 ≤ r.toNat) :
    exec (.regRead r) s = filtered s (raise .illegalCmd (encode (.regRead r)) s) := by
  change execRegRead r s = _
  rw [execRegRead, regOfNumber_eq_none h]

/-- Rule R74 for the row of REG_READ. -/
theorem decode_regRead_of_mustBeZero {cmd : Word} (op : opField cmd = 0x30) (set : wField cmd ≠ 0 ∨ rsvField cmd ≠ 0) :
    decode cmd = .error .mustBeZeroSet := by
  rw [decode, op]
  change (if wField cmd == 0 && rsvField cmd == 0 then _ else _) = _
  refine if_neg fun zero => ?_
  rw [Bool.and_eq_true, beq_iff_eq, beq_iff_eq] at zero
  exact set.elim (· zero.1) (· zero.2)

/-- Settles O20: the word, the must-be-zero bits, the registers by number, then the reserved numbers. -/
theorem regReadFollowsItsRule : Obligations.RegReadFollowsItsRule := by
  refine ⟨fun r => ?_, fun cmd op set i => by simp [decode_regRead_of_mustBeZero op set], fun s => ?_⟩
  · simp [encode, commandWord_toNat, opcodeByte, byteOperand, wordOperand]
  · have read {r : Byte} (reg : Reg) (h : regOfNumber r = some reg) := exec_regRead_of_number (s := s) h
    simp only [BitVec.ofNat_toNat, ← statusWord_eq_ofNat]
    exact ⟨read .id rfl, read .status rfl, read .errCause rfl, read .errCmd rfl, read .chunkCount rfl, read .chunkCap rfl,
      read .passBase rfl, read .pixIn rfl, read .runValue rfl, read .runLen rfl, read .decTotal rfl,
      read .decEmitted rfl, read .decChunk rfl, read .decOffset rfl,
      fun r hr he => (exec_regRead_of_reserved hr).trans (filtered_of_no_error _ he),
      fun r hr he => (exec_regRead_of_reserved hr).trans (filtered_of_error _ he)⟩

/-! ### No state is hidden (rule R44) -/

theorem setWidth_injective {w v : Nat} (h : w ≤ v) : Function.Injective (BitVec.setWidth v : BitVec w → BitVec v) :=
  Function.LeftInverse.injective (g := BitVec.setWidth w) fun x => by
    rw [BitVec.setWidth_setWidth_of_le x h, BitVec.setWidth_eq]

theorem chunkWord_injective : Function.Injective chunkWord := by
  intro c d h
  have fields : c.run ++ c.value = d.run ++ d.value := setWidth_injective (by decide) h
  have run := congrArg (BitVec.extractLsb' 8 32) fields
  have value := congrArg (BitVec.extractLsb' 0 8) fields
  rw [BitVec.extractLsb'_append_eq_left, BitVec.extractLsb'_append_eq_left] at run
  rw [BitVec.extractLsb'_append_eq_right, BitVec.extractLsb'_append_eq_right] at value
  cases c
  cases d
  exact congrArg₂ Chunk.mk value run

/-- Stores of one length whose chunks read alike are equal. -/
theorem store_eq_of_chunkWords {m n : Memory} (length : m.length = n.length)
    (words : ∀ (i : Nat) (c : Chunk), Memory.readEntry m i = some c →
      ∃ d, Memory.readEntry n i = some d ∧ chunkWord c = chunkWord d) : m = n := by
  refine List.ext_getElem length fun i hm hn => ?_
  obtain ⟨d, hd, hword⟩ := words i m[i] (List.getElem?_eq_getElem hm)
  rw [chunkWord_injective hword]
  exact (Option.some.inj ((List.getElem?_eq_getElem hn).symm.trans hd)).symm

/-- STATUS tells the six flags. -/
theorem flags_eq_of_status (h : s.readReg .status = t.readReg .status) :
    s.encActive = t.encActive ∧ s.runOpen = t.runOpen ∧ s.append = t.append ∧ s.decActive = t.decActive ∧
      s.decDone = t.decDone ∧ s.err = t.err := by
  obtain ⟨s0, s1, s2, s3, s4, s5, -⟩ := statusBitsAreTheFlags s
  obtain ⟨t0, t1, t2, t3, t4, t5, -⟩ := statusBitsAreTheFlags t
  rw [← h] at t0 t1 t2 t3 t4 t5
  exact ⟨s0.symm.trans t0, s1.symm.trans t1, s2.symm.trans t2, s3.symm.trans t3, s4.symm.trans t4, s5.symm.trans t5⟩

/-- Settles O36, field by field: each is a register, a bit of STATUS, or an entry of the store. -/
theorem noStateIsHidden : Obligations.NoStateIsHidden := by
  intro s t hs ht regs words
  obtain ⟨encActive, runOpen, append, decActive, decDone, err⟩ := flags_eq_of_status (regs .status)
  have count : s.store.length = t.store.length := by
    rw [← readReg_chunkCount_toNat hs, regs, readReg_chunkCount_toNat ht]
  have cap : s.chunkCap = t.chunkCap := by
    rw [← readReg_chunkCap_toNat hs, regs, readReg_chunkCap_toNat ht]
  have store := store_eq_of_chunkWords count words
  have errCause : s.errCause = t.errCause := setWidth_injective (by decide) (regs .errCause)
  have runValue : s.runValue = t.runValue := setWidth_injective (by decide) (regs .runValue)
  have runLen : s.runLen = t.runLen := setWidth_injective (by decide) (regs .runLen)
  have decOffset : s.decOffset = t.decOffset := setWidth_injective (by decide) (regs .decOffset)
  cases s
  cases t
  simp only [State.SameBlock, State.mk.injEq]
  exact ⟨encActive, runOpen, append, decActive, decDone, err, errCause, regs .errCmd, cap, store, regs .passBase,
    regs .pixIn, runValue, runLen, regs .decTotal, regs .decEmitted, regs .decChunk, decOffset, trivial, trivial,
    trivial⟩

/-! ### Which commands write a register (rule R20) -/

/-- Settles O31: the frame of each effect. -/
theorem registersAreWrittenOnlyByTheirCommands : Obligations.RegistersAreWrittenOnlyByTheirCommands := by
  intro i s t h
  cases exec_effect h with
  | blocked => simp
  | faulted _ _ noErr => simp [noErr]
  | readDone => simp
  | passBegun m =>
    cases m <;> simp [State.beginPass, EncMode.keeps, Instr.writesAccumulator, Instr.emptiesStore]
  | runStarted => simp [Instr.writesAccumulator]
  | runExtended => simp [Instr.writesAccumulator]
  | runClosed => simp [Instr.writesAccumulator, Instr.appendsToStore]
  | passFlushed => simp [State.endPass, Instr.writesAccumulator, Instr.appendsToStore]
  | passEnded => simp [State.endPass, Instr.writesAccumulator]
  | decodeBegun => simp [State.beginDecode, Instr.writesDecoder]
  | pixelEmitted => simp [Instr.writesDecoder]
  | chunkLoaded => simp [Instr.appendsToStore]
  | storeCleared => simp [Instr.emptiesStore]
  | blockReset => simp [Instr.writesAccumulator, Instr.writesDecoder, Instr.emptiesStore]

end Sys2Proof.Machine
end

section
/-! PROOFS. The memory: what a command can do to the store (StoreWritesAreAppendOnly, DecPixelBeyondTheCountStops), the
commands without side effect (SuccessfulReadsChangeNothing), and the chunk table (ChunkTableReadsBack,
DumpedChunkWordsAreTheTable). -/

namespace Sys2Proof.Machine

variable {s t : State}

/-! ### The store (rules R50 to R54) -/

/-- Settles O32: the store after each effect. -/
theorem storeWritesAreAppendOnly : Obligations.StoreWritesAreAppendOnly := by
  intro i s t h
  cases exec_effect h with
  | passBegun m =>
    cases m with
    | clear => exact .inr (.inr ⟨rfl, rfl⟩)
    | append => exact .inl rfl
  | runClosed => exact .inr (.inl ⟨rfl, _, rfl⟩)
  | passFlushed => exact .inr (.inl ⟨rfl, _, rfl⟩)
  | chunkLoaded => exact .inr (.inl ⟨rfl, _, rfl⟩)
  | storeCleared => exact .inr (.inr ⟨rfl, rfl⟩)
  | blockReset => exact .inr (.inr ⟨rfl, rfl⟩)
  | _ => exact .inl rfl

/-- Settles O16: past the filter and the check for an open decode, there is no entry to read. -/
theorem decPixelBeyondTheCountStops : Obligations.DecPixelBeyondTheCountStops := by
  intro s he hd hcount
  refine (filtered_of_no_error _ he).trans ((if_neg (by simp [hd])).trans ?_)
  rw [(Memory.readEntry_eq_none _ _).mpr hcount]

/-! ### The commands without side effect (rule R63) -/

theorem exec_chunkRead_of_entry {i : RunLength} {c : Chunk} (he : s.err = false)
    (hc : Memory.readEntry s.store i.toNat = some c) : exec (.chunkRead i) s = .next (s.answers 0 (chunkWord c)) := by
  refine (filtered_of_no_error _ he).trans ?_
  rw [hc]
  rfl

/-- The last response tells the code and the data. -/
theorem answered_inj {before : List Response} {code code' : Byte} {data data' : Word}
    (h : before ++ [⟨code, data⟩] = before ++ [⟨code', data'⟩]) : code = code' ∧ data = data' := by
  simpa using h

/-- A read that answers `OK` finds the same entry when it is repeated. -/
theorem execChunkRead_repeats {i : RunLength} {d : Word} (h : exec (.chunkRead i) s = .next t)
    (ok : t.responses = s.responses ++ [⟨0, d⟩]) :
    t = s.answers 0 d ∧ exec (.chunkRead i) t = .next (t.answers 0 d) := by
  rcases execChunkRead_next h with ⟨-, rfl⟩ | ⟨he, ⟨-, rfl⟩ | ⟨c, hc, rfl⟩⟩
  · exact absurd (answered_inj ok).1 (by decide)
  · exact absurd (answered_inj ok).1 (by decide)
  · obtain rfl := (answered_inj ok).2
    exact ⟨rfl, exec_chunkRead_of_entry he hc⟩

/-- A register that was read holds the same value when it is read again. -/
theorem execRegRead_repeats {r : Byte} {d : Word} (h : exec (.regRead r) s = .next t)
    (ok : t.responses = s.responses ++ [⟨0, d⟩]) :
    t = s.answers 0 d ∧ exec (.regRead r) t = .next (t.answers 0 d) := by
  rcases execRegRead_next h with ⟨reg, hr, rfl⟩ | ⟨-, -, rfl⟩ | ⟨-, -, rfl⟩
  · obtain rfl := (answered_inj ok).2
    refine ⟨rfl, (exec_regRead_of_number hr).trans ?_⟩
    cases reg <;> rfl
  · exact absurd (answered_inj ok).1 (by decide)
  · exact absurd (answered_inj ok).1 (by decide)

theorem execNop_repeats {d : Word} (h : exec .nop s = .next t) (ok : t.responses = s.responses ++ [⟨0, d⟩]) :
    t = s.answers 0 d ∧ exec .nop t = .next (t.answers 0 d) := by
  obtain rfl := execNop_next h
  obtain rfl := (answered_inj ok).2
  exact ⟨rfl, rfl⟩

/-- Settles O35: each of the three adds its response, twice alike, and nothing else. -/
theorem successfulReadsChangeNothing : Obligations.SuccessfulReadsChangeNothing := by
  intro i s t d read h ok
  have repeats : t = s.answers 0 d ∧ exec i t = .next (t.answers 0 d) := by
    rcases read with ⟨j, rfl⟩ | ⟨r, rfl⟩ | rfl
    · exact execChunkRead_repeats h ok
    · exact execRegRead_repeats h ok
    · exact execNop_repeats h ok
  obtain ⟨rfl, again⟩ := repeats
  exact ⟨rfl, _, again, rfl, rfl⟩

/-! ### The chunk word and the record (rules R57, R78) -/

theorem chunkWord_value (c : Chunk) : (chunkWord c).extractLsb' 0 8 = c.value := by
  rw [chunkWord, BitVec.extractLsb'_setWidth_of_le (by decide), BitVec.extractLsb'_append_eq_right]

/-- Above the value lie the bits of the run length. -/
theorem chunkWord_runBits (c : Chunk) {k len : Nat} (inWord : 8 + k + len ≤ 64) :
    (chunkWord c).extractLsb' (8 + k) len = c.run.extractLsb' k len := by
  rw [chunkWord, BitVec.extractLsb'_setWidth_of_le inWord, BitVec.extractLsb'_append_eq_of_le (Nat.le_add_right ..),
    Nat.add_sub_cancel_left]

theorem lowFiveBytes_chunkWord (c : Chunk) : lowFiveBytes (chunkWord c) = chunkRecord c := by
  have value := chunkWord_value c
  have run0 := chunkWord_runBits c (k := 0) (len := 8) (by decide)
  have run1 := chunkWord_runBits c (k := 8) (len := 8) (by decide)
  have run2 := chunkWord_runBits c (k := 16) (len := 8) (by decide)
  have run3 := chunkWord_runBits c (k := 24) (len := 8) (by decide)
  simp only [Nat.reduceAdd] at run0 run1 run2 run3
  rw [lowFiveBytes, value, run0, run1, run2, run3, chunkRecord, le32]

/-- Settles O46: record by record after the count. -/
theorem dumpedChunkWordsAreTheTable : Obligations.DumpedChunkWordsAreTheTable := by
  refine ⟨lowFiveBytes_chunkWord, fun seq => ?_⟩
  rw [dumpTable, List.flatMap_map, chunkTable]
  simp only [lowFiveBytes_chunkWord]

/-! ### The chunk table (rules R56, R58, R146) -/

@[simp] theorem le64_length (x : Word) : (le64 x).length = 8 := rfl

@[simp] theorem chunkRecord_length (c : Chunk) : (chunkRecord c).length = 5 := rfl

theorem chunkRecords_length (seq : Memory) : (seq.flatMap chunkRecord).length = 5 * seq.length := by
  simp [List.length_flatMap, Nat.mul_comm]

theorem chunkTable_length (seq : Memory) : (chunkTable seq).length = 8 + 5 * seq.length := by
  rw [chunkTable, List.length_append, le64_length, chunkRecords_length]

/-- A byte under the bits above it. -/
theorem extractLsb'_append_byte {w : Nat} (x : BitVec w) (k len : Nat) :
    x.extractLsb' (k + 8) len ++ x.extractLsb' k 8 = x.extractLsb' k (len + 8) :=
  BitVec.extractLsb'_append_extractLsb'_eq_extractLsb' rfl

/-- The four bytes of `le32` put together again. -/
theorem le32_joined (x : BitVec 32) :
    (x.extractLsb' 24 8 ++ x.extractLsb' 16 8 ++ x.extractLsb' 8 8 ++ x.extractLsb' 0 8).setWidth 32 = x := by
  simp only [extractLsb'_append_byte, BitVec.extractLsb'_eq_self, BitVec.setWidth_eq]

/-- The eight bytes of `le64` put together again. -/
theorem le64_joined (x : Word) :
    (x.extractLsb' 56 8 ++ x.extractLsb' 48 8 ++ x.extractLsb' 40 8 ++ x.extractLsb' 32 8 ++ x.extractLsb' 24 8 ++
      x.extractLsb' 16 8 ++ x.extractLsb' 8 8 ++ x.extractLsb' 0 8).setWidth 64 = x := by
  simp only [extractLsb'_append_byte, BitVec.extractLsb'_eq_self, BitVec.setWidth_eq]

theorem readRecords_chunkRecord (k : Nat) (c : Chunk) (rest : List Byte) :
    readRecords (k + 1) (chunkRecord c ++ rest) = (readRecords k rest).map (c :: ·) := by
  simp only [chunkRecord, le32, List.cons_append, List.nil_append, readRecords, le32_joined]

theorem readRecords_chunkRecords (seq : Memory) : readRecords seq.length (seq.flatMap chunkRecord) = some seq := by
  induction seq with
  | nil => rfl
  | cons c seq ih => rw [List.length_cons, List.flatMap_cons, readRecords_chunkRecord, ih, Option.map_some]

/-- Reading what follows a count: the check that all records are there, then the records. -/
theorem readTable_le64_append (count : Word) (rest : List Byte) :
    readTable (le64 count ++ rest) =
      if 5 * count.toNat ≤ rest.length then readRecords count.toNat rest else none := by
  simp only [le64, List.cons_append, List.nil_append, readTable, le64_joined]

/-- Too few bytes for a count. -/
theorem readTable_of_length_lt {bytes : List Byte} (h : bytes.length < 8) : readTable bytes = none := by
  unfold readTable
  split
  · simp only [List.length_cons] at h
    omega
  · rfl

theorem readTable_chunkTable {seq : Memory} (fits : seq.length < 2 ^ 64) : readTable (chunkTable seq) = some seq := by
  rw [chunkTable, readTable_le64_append, BitVec.toNat_ofNat, Nat.mod_eq_of_lt fits,
    if_pos (chunkRecords_length seq).ge, readRecords_chunkRecords]

/-- A proper beginning ends within the count, or lacks bytes of the records. -/
theorem readTable_chunkTable_take {seq : Memory} (fits : seq.length < 2 ^ 64) {k : Nat}
    (proper : k < (chunkTable seq).length) : readTable ((chunkTable seq).take k) = none := by
  rw [chunkTable_length] at proper
  rcases Nat.lt_or_ge k 8 with inCount | pastCount
  · exact readTable_of_length_lt ((List.length_take_le ..).trans_lt inCount)
  · obtain ⟨j, rfl⟩ := Nat.exists_eq_add_of_le pastCount
    have short : ((seq.flatMap chunkRecord).take j).length ≤ j := List.length_take_le ..
    rw [chunkTable, ← le64_length (BitVec.ofNat 64 seq.length), List.take_length_add_append, readTable_le64_append,
      BitVec.toNat_ofNat, Nat.mod_eq_of_lt fits, if_neg (by omega)]

/-- Settles O45: the length, the whole table, its proper beginnings. -/
theorem chunkTableReadsBack : Obligations.ChunkTableReadsBack :=
  fun seq fits => ⟨chunkTable_length seq, readTable_chunkTable fits, fun _ => readTable_chunkTable_take fits⟩

end Sys2Proof.Machine
end

section
/-! PROOFS. The encoding: decoding inverts the encoder and is inverted by it (DecodeOfEncodeIsTheCommand,
EncodeOfDecodeIsTheWord, OpcodeWordsDecode), the opcode table and the illegal words (DecodeAgreesWithOpcodeTable,
IllegalWordsFault), and the response to a word (EveryCommandAnswersOnce). -/

namespace Sys2Proof

variable {cmd : Word} {i : Instr}

/-! ### The mode (rule R72) -/

@[simp] theorem modeOf_modeByte (m : EncMode) : modeOf (modeByte m) = m := by
  cases m <;> rfl

/-- A byte encodes a mode exactly when its seven high bits are zero. -/
theorem eq_modeByte_iff_highBits : ∀ b : Byte, b = modeByte (modeOf b) ↔ b.extractLsb' 1 7 = 0 := by
  decide

/-- The same, the high bits taken by the mask of ENC_BEGIN's row. -/
theorem eq_modeByte_iff_mask : ∀ b : Byte, b = modeByte (modeOf b) ↔ b &&& 0xFE#8 = 0#8 := by
  decide

/-! ### Decoding by fields, inverted (rules R73, R74) -/

section

variable {op b : Byte} {w : RunLength} {rsv : BitVec 16}

/-- A well-formed command and the fields of its word. -/
def IsCommand (op b : Byte) (w : RunLength) (rsv : BitVec 16) (i : Instr) : Prop :=
  i.wf = true ∧ op = opcodeByte i ∧ b = byteOperand i ∧ w = wordOperand i ∧ rsv = 0

/-- A command that `r` answers is the one of these fields. -/
def AnswersCommand (op b : Byte) (w : RunLength) (rsv : BitVec 16) (r : Except DecodeReject Instr) : Prop :=
  ∀ i, r = .ok i → IsCommand op b w rsv i

theorem error_answersCommand (e : DecodeReject) : AnswersCommand op b w rsv (.error e) := nofun

theorem ok_answersCommand (h : IsCommand op b w rsv i) : AnswersCommand op b w rsv (.ok i) := by
  rintro _ ⟨⟩
  exact h

theorem ite_answersCommand {p : Prop} [Decidable p] {x y : Except DecodeReject Instr}
    (hx : p → AnswersCommand op b w rsv x) (hy : AnswersCommand op b w rsv y) :
    AnswersCommand op b w rsv (if p then x else y) := by
  split
  · next hp => exact hx hp
  · exact hy

theorem whenZero_answersCommand {zero : Bool} (h : zero = true → IsCommand op b w rsv i) :
    AnswersCommand op b w rsv (whenZero zero i) :=
  ite_answersCommand (fun hz => ok_answersCommand (h hz)) (error_answersCommand _)

/-- The rows one after the other: the must-be-zero bits of a row are those its commands leave zero. -/
theorem decodeFields_answersCommand : AnswersCommand op b w rsv (decodeFields op b w rsv) := by
  refine ite_answersCommand ?nop <| ite_answersCommand ?encBegin <| ite_answersCommand ?encPixel <|
    ite_answersCommand ?encEnd <| ite_answersCommand ?decBegin <| ite_answersCommand ?decPixel <|
    ite_answersCommand ?chunkLoad <| ite_answersCommand ?chunkRead <| ite_answersCommand ?chunkClear <|
    ite_answersCommand ?regRead <| ite_answersCommand ?softReset <| error_answersCommand _
  case regRead =>
    intro hop
    refine ite_answersCommand (fun hz => ite_answersCommand (fun hr => ok_answersCommand ?_)
      (error_answersCommand _)) (error_answersCommand _)
    simpa [IsCommand, Instr.wf, opcodeByte, byteOperand, wordOperand, hop, hr] using hz
  all_goals
    refine fun hop => whenZero_answersCommand fun hz => ?_
    simpa [IsCommand, Instr.wf, opcodeByte, byteOperand, wordOperand, hop, eq_modeByte_iff_highBits, and_assoc] using hz

end

/-! ### The decoder and the encoder -/

/-- A command's word is the word with the command's fields. -/
theorem encode_eq_iff : encode i = cmd ↔
    opField cmd = opcodeByte i ∧ bField cmd = byteOperand i ∧ wField cmd = wordOperand i ∧ rsvField cmd = 0 := by
  constructor
  · rintro rfl
    exact Laws.EncodeFields.statement_of_commandWord i
  · rintro ⟨hop, hb, hw, hrsv⟩
    rw [encode, ← hop, ← hb, ← hw, commandWord_fields cmd hrsv]

theorem decode_encode (h : i.wf = true) : decode (encode i) = .ok i := by
  obtain ⟨hop, hb, hw, hrsv⟩ := Laws.EncodeFields.statement_of_commandWord i
  rw [decode, hop, hb, hw, hrsv]
  cases i with
  | encBegin m => cases m <;> rfl
  | regRead r => exact if_pos (of_decide_eq_true h)
  | _ => rfl

theorem encode_of_decode (h : decode cmd = .ok i) : i.wf = true ∧ encode i = cmd := by
  obtain ⟨hwf, hfields⟩ := decodeFields_answersCommand i h
  exact ⟨hwf, encode_eq_iff.mpr hfields⟩

/-- Settles O2: the encoder fills the fields the command's row reads and leaves the must-be-zero bits zero. -/
theorem decodeOfEncodeIsTheCommand : Obligations.DecodeOfEncodeIsTheCommand :=
  fun _ => decode_encode

/-- Settles O3: a word that decodes has the command's fields, and the four fields are the whole word. -/
theorem encodeOfDecodeIsTheWord : Obligations.EncodeOfDecodeIsTheWord :=
  fun _ _ => encode_of_decode

/-- Settles O1: each word is run through the decoder. -/
theorem opcodeWordsDecode : Obligations.OpcodeWordsDecode :=
  ⟨rfl, rfl, rfl, rfl, rfl, rfl, rfl, rfl, rfl, rfl, rfl, rfl⟩

/-! ### Selecting a row of the opcode table (rule R73) -/

section

variable {row row' : OpcodeRow}

@[simp] theorem opField_and (x y : Word) : opField (x &&& y) = opField x &&& opField y := BitVec.extractLsb'_and

@[simp] theorem bField_and (x y : Word) : bField (x &&& y) = bField x &&& bField y := BitVec.extractLsb'_and

@[simp] theorem wField_and (x y : Word) : wField (x &&& y) = wField x &&& wField y := BitVec.extractLsb'_and

@[simp] theorem rsvField_and (x y : Word) : rsvField (x &&& y) = rsvField x &&& rsvField y := BitVec.extractLsb'_and

/-- The four fields are the whole word (rule R70). -/
theorem word_eq_iff_fields {x y : Word} : x = y ↔
    opField x = opField y ∧ bField x = bField y ∧ wField x = wField y ∧ rsvField x = rsvField y := by
  simp only [← BitVec.toNat_inj, opField_toNat, bField_toNat, wField_toNat, rsvField_toNat]
  omega

/-- Selection field by field. -/
theorem selectedBy_iff_fields : row.selectedBy cmd = true ↔
    opField cmd &&& opField row.mask = opField row.pattern ∧ bField cmd &&& bField row.mask = bField row.pattern ∧
      wField cmd &&& wField row.mask = wField row.pattern ∧
      rsvField cmd &&& rsvField row.mask = rsvField row.pattern := by
  simp [OpcodeRow.selectedBy, word_eq_iff_fields]

/-- A word selects a row exactly when it is the word of the command the row builds from its fields: a mask leaves out
just the bits that the row's operands fill. -/
theorem selectedBy_iff_encode (hrow : row ∈ opcodeTable) :
    row.selectedBy cmd = true ↔ encode (row.build (bField cmd) (wField cmd)) = cmd := by
  rw [selectedBy_iff_fields, encode_eq_iff]
  generalize opField cmd = op, bField cmd = b, wField cmd = w, rsvField cmd = rsv
  have whole8 (x : BitVec 8) : x &&& 0xFF#8 = x := BitVec.and_allOnes
  have whole16 (x : BitVec 16) : x &&& 0xFFFF#16 = x := BitVec.and_allOnes
  have whole32 (x : BitVec 32) : x &&& 0xFFFFFFFF#32 = x := BitVec.and_allOnes
  simp only [opcodeTable, List.mem_cons, List.not_mem_nil, or_false] at hrow
  rcases hrow with rfl | rfl | rfl | rfl | rfl | rfl | rfl | rfl | rfl | rfl | rfl
  all_goals
    simp [opField, bField, wField, rsvField, opcodeByte, byteOperand, wordOperand, eq_modeByte_iff_mask, whole8,
      whole16, whole32]

/-- Every row's mask covers the opcode, so a word selects only a row of its own opcode. -/
theorem opField_eq_of_selectedBy (hrow : row ∈ opcodeTable) (h : row.selectedBy cmd = true) :
    opField row.pattern = opField cmd := by
  have covered : ∀ row ∈ opcodeTable, opField row.mask = BitVec.allOnes 8 := by decide
  rw [← (selectedBy_iff_fields.mp h).1, covered row hrow, BitVec.and_allOnes]

theorem opcodes_nodup : (opcodeTable.map fun row => opField row.pattern).Nodup := by
  decide

/-- No two rows have one opcode. -/
theorem row_eq_of_opField_eq (hrow : row ∈ opcodeTable) (hrow' : row' ∈ opcodeTable)
    (h : opField row.pattern = opField row'.pattern) : row = row' :=
  List.inj_on_of_nodup_map opcodes_nodup hrow hrow' h

theorem row_eq_of_selectedBy (hrow : row ∈ opcodeTable) (hrow' : row' ∈ opcodeTable) (h : row.selectedBy cmd = true)
    (h' : row'.selectedBy cmd = true) : row = row' :=
  row_eq_of_opField_eq hrow hrow' ((opField_eq_of_selectedBy hrow h).trans (opField_eq_of_selectedBy hrow' h').symm)

/-- Every command has a row, which builds it from its operands. -/
theorem exists_row (i : Instr) : ∃ row ∈ opcodeTable, row.build (byteOperand i) (wordOperand i) = i := by
  cases i <;> simp [opcodeTable, byteOperand, wordOperand]

/-! ### Decoding by fields and by the table -/

/-- A word decodes to the command that the row it selects builds, when that is well formed. -/
theorem decode_eq_ok_iff : decode cmd = .ok i ↔
    ∃ row ∈ opcodeTable, row.selectedBy cmd = true ∧ row.build (bField cmd) (wField cmd) = i ∧ i.wf = true := by
  constructor
  · intro h
    obtain ⟨hwf, hcmd⟩ := encode_of_decode h
    obtain ⟨row, hrow, hbuild⟩ := exists_row i
    obtain ⟨-, hb, hw, -⟩ := encode_eq_iff.mp hcmd
    rw [← hb, ← hw] at hbuild
    exact ⟨row, hrow, (selectedBy_iff_encode hrow).mpr (by rw [hbuild, hcmd]), hbuild, hwf⟩
  · rintro ⟨row, hrow, hsel, rfl, hwf⟩
    rw [← decode_encode hwf, (selectedBy_iff_encode hrow).mp hsel]

theorem selectedBy_of_find? (h : opcodeTable.find? (OpcodeRow.selectedBy · cmd) = some row) :
    row.selectedBy cmd = true :=
  List.find?_some (p := (OpcodeRow.selectedBy · cmd)) h

theorem find?_eq_of_selectedBy (hrow : row ∈ opcodeTable) (h : row.selectedBy cmd = true) :
    opcodeTable.find? (OpcodeRow.selectedBy · cmd) = some row := by
  cases hfind : opcodeTable.find? (OpcodeRow.selectedBy · cmd) with
  | none => exact absurd h (List.find?_eq_none.mp hfind row hrow)
  | some row' =>
    rw [row_eq_of_selectedBy hrow (List.mem_of_find?_eq_some hfind) h (selectedBy_of_find? hfind)]

/-- The loop's answer: as only one row can be selected, its order does not matter. -/
theorem decodeByTable_eq_some_iff : decodeByTable cmd = some i ↔
    ∃ row ∈ opcodeTable, row.selectedBy cmd = true ∧ row.build (bField cmd) (wField cmd) = i ∧ i.wf = true := by
  constructor
  · intro h
    unfold decodeByTable at h
    split at h
    · next row hfind =>
      obtain ⟨hwf, hbuild⟩ := Option.ite_none_right_eq_some.mp h
      cases hbuild
      exact ⟨row, List.mem_of_find?_eq_some hfind, selectedBy_of_find? hfind, rfl, hwf⟩
    · cases h
  · rintro ⟨row, hrow, hsel, rfl, hwf⟩
    rw [decodeByTable, find?_eq_of_selectedBy hrow hsel]
    exact if_pos hwf

/-- Settles O4: both decoders answer by the one row the word selects. -/
theorem decodeAgreesWithOpcodeTable : Obligations.DecodeAgreesWithOpcodeTable := by
  refine ⟨fun cmd i => decode_eq_ok_iff.trans decodeByTable_eq_some_iff.symm, fun cmd j k hj hk => ?_⟩
  obtain ⟨row, hrow, hsel⟩ := (Option.any_eq_true ..).mp hj
  obtain ⟨row', hrow', hsel'⟩ := (Option.any_eq_true ..).mp hk
  have same : row = row' :=
    row_eq_of_selectedBy (List.mem_of_getElem? hrow) (List.mem_of_getElem? hrow') hsel hsel'
  exact Fin.ext ((List.getElem?_inj j.isLt opcodes_nodup.of_map).mp (by rw [hrow, hrow', same]))

/-! ### The illegal words (rule R75) -/

/-- The one command whose operand can be out of its range. -/
theorem eq_regRead_of_not_wf (h : i.wf ≠ true) : ∃ r : Byte, i = .regRead r ∧ 14 ≤ r.toNat := by
  cases i with
  | regRead r => exact ⟨r, rfl, Nat.lt_of_not_le fun hr => h (decide_eq_true hr)⟩
  | _ => exact absurd rfl h

theorem regRead_of_opcodeByte (h : opcodeByte i = 0x30) : i = .regRead (byteOperand i) := by
  cases i with
  | regRead r => rfl
  | _ => cases h

/-- A word that is illegal although it selects a row reads a reserved register. -/
theorem reservedRegister_of_selectedBy (hrow : row ∈ opcodeTable) (hsel : row.selectedBy cmd = true)
    (illegal : ∀ i, decode cmd ≠ .ok i) : opField cmd = 0x30 ∧ 14 ≤ (bField cmd).toNat := by
  have hwf : (row.build (bField cmd) (wField cmd)).wf ≠ true := fun hwf =>
    illegal _ (decode_eq_ok_iff.mpr ⟨row, hrow, hsel, rfl, hwf⟩)
  obtain ⟨r, hr, hle⟩ := eq_regRead_of_not_wf hwf
  have hcmd := (selectedBy_iff_encode hrow).mp hsel
  rw [hr] at hcmd
  obtain ⟨hop, hb, -⟩ := encode_eq_iff.mp hcmd
  exact ⟨hop, hb ▸ hle⟩

theorem register_le_of_decode (h : decode cmd = .ok i) (hop : opField cmd = 0x30) : (bField cmd).toNat ≤ 13 := by
  obtain ⟨hwf, hcmd⟩ := encode_of_decode h
  obtain ⟨hop', hb, -⟩ := encode_eq_iff.mp hcmd
  rw [regRead_of_opcodeByte (hop'.symm.trans hop)] at hwf
  rw [hb]
  exact of_decide_eq_true hwf

/-- Settles O5: a word of an assigned opcode selects its row unless a must-be-zero bit is set, and what it selects
makes a command unless it names a reserved register; the decoder's refusal is carried out as the fault. -/
theorem illegalWordsFault : Obligations.IllegalWordsFault := by
  refine ⟨fun cmd => ⟨fun illegal => ?_, fun classes i hi => ?_⟩, fun cmd s illegal he =>
    (Machine.carryOut_of_illegal illegal).trans (Machine.filtered_of_no_error _ he)⟩
  · by_cases assigned : ∃ row ∈ opcodeTable, opField row.pattern = opField cmd
    · obtain ⟨row, hrow, hop⟩ := assigned
      cases hsel : row.selectedBy cmd with
      | false => exact .inr (.inl ⟨row, hrow, hop, hsel⟩)
      | true => exact .inr (.inr (reservedRegister_of_selectedBy hrow hsel illegal))
    · exact .inl fun row hrow hop => assigned ⟨row, hrow, hop⟩
  · obtain ⟨row, hrow, hsel, -, -⟩ := decode_eq_ok_iff.mp hi
    have hop := opField_eq_of_selectedBy hrow hsel
    rcases classes with unassigned | ⟨row', hrow', hop', set⟩ | ⟨regRead, reserved⟩
    · exact unassigned row hrow hop
    · rw [row_eq_of_opField_eq hrow' hrow (hop'.trans hop.symm), hsel] at set
      cases set
    · have := register_le_of_decode hi regRead
      omega

end

end Sys2Proof

namespace Sys2Proof.Machine

variable {s t : State}

/-! ### The response to a word (rule R77) -/

/-- `t` holds the responses of `s` and one more, with a code of rule R160 and, unless the code is `OK`, data 0. -/
def AddsResponse (s t : State) : Prop :=
  ∃ r : Response, t.responses = s.responses ++ [r] ∧ r.code.toNat ≤ 8 ∧ (r.code ≠ 0 → r.data = 0)

theorem addsResponse_blocked : AddsResponse s (s.answers 0x08 0) :=
  ⟨_, rfl, Nat.le_refl 8, fun _ => rfl⟩

theorem addsResponse_faulted (c : Cause) (cmd : Word) : AddsResponse s (s.faulted c.value cmd) :=
  ⟨_, rfl, c.value_le.trans (by decide), fun _ => rfl⟩

theorem addsResponse_ok (keeps : t.responses = s.responses) (data : Word) : AddsResponse s (t.answers 0 data) :=
  ⟨⟨0, data⟩, by rw [State.answers_responses, keeps], Nat.zero_le 8, fun h => absurd rfl h⟩

/-- The responses change only by the one the command answers. -/
theorem addsResponse_of_effect {i : Instr} (h : Effect s i t) : AddsResponse s t := by
  cases h with
  | blocked => exact addsResponse_blocked
  | faulted c => exact addsResponse_faulted _ _
  | _ => exact addsResponse_ok rfl _

/-- All that carrying out a word can do: an effect of the command it decodes to, or, for an illegal word, `BLOCKED` or
the fault. -/
theorem carryOut_next {cmd : Word} (h : carryOut cmd s = .next t) :
    (∃ i, decode cmd = .ok i ∧ Effect s i t) ∨ (s.err = true ∧ t = s.answers 0x08 0) ∨
      (s.err = false ∧ t = s.faulted 0x01 cmd) := by
  unfold carryOut at h
  split at h
  · next i hi => exact .inl ⟨i, hi, exec_effect h⟩
  · rcases filtered_next h with blocked | ⟨he, h⟩
    · exact .inr (.inl blocked)
    · exact .inr (.inr ⟨he, (Host.Outcome.next.inj h).symm⟩)

/-- Settles O27: one response for each thing a word can do. -/
theorem everyCommandAnswersOnce : Obligations.EveryCommandAnswersOnce := by
  intro cmd s t h
  rcases carryOut_next h with ⟨i, -, effect⟩ | ⟨-, rfl⟩ | ⟨-, rfl⟩
  · exact addsResponse_of_effect effect
  · exact addsResponse_blocked
  · exact addsResponse_faulted .illegalCmd cmd

end Sys2Proof.Machine
end

section
/-! PROOFS. The encoder's reference functions: round trip, maximality and minimality of an encoding
(EncodingDecodesToItsPixels, EncodingIsMaximal, EncodingIsMinimal). -/

namespace Sys2Proof.Machine

/-! ### The encoder's loop, one pixel at a time (rule R106) -/

@[simp] theorem encodeFrom_nil (cv : Byte) (cl : Nat) : encodeFrom cv cl [] = [(cv, cl)] := rfl

theorem encodeFrom_same (cv : Byte) (cl : Nat) (rest : List Byte) :
    encodeFrom cv cl (cv :: rest) = encodeFrom cv (cl + 1) rest :=
  if_pos rfl

theorem encodeFrom_differs {cv p : Byte} (h : p ≠ cv) (cl : Nat) (rest : List Byte) :
    encodeFrom cv cl (p :: rest) = (cv, cl) :: encodeFrom p 1 rest :=
  if_neg h

/-- An induction along the loop: no pixel left, a pixel of the current run, a boundary. -/
theorem encodeFrom_induction {motive : Byte → Nat → List Byte → Prop} (nil : ∀ cv cl, motive cv cl [])
    (same : ∀ cv cl rest, motive cv (cl + 1) rest → motive cv cl (cv :: rest))
    (differs : ∀ cv cl p rest, p ≠ cv → motive p 1 rest → motive cv cl (p :: rest)) (cv : Byte) (cl : Nat)
    (pixels : List Byte) : motive cv cl pixels := by
  induction pixels generalizing cv cl with
  | nil => exact nil cv cl
  | cons p rest ih =>
    by_cases h : p = cv
    · subst h
      exact same p cl rest (ih p (cl + 1))
    · exact differs cv cl p rest h (ih p 1)

/-! ### Round trip, positivity and count conservation (rule R110) -/

@[simp] theorem decodeRuns_nil : decodeRuns [] = [] := rfl

@[simp] theorem decodeRuns_cons (r : Run) (seq : List Run) :
    decodeRuns (r :: seq) = List.replicate r.2 r.1 ++ decodeRuns seq :=
  List.flatMap_cons

theorem decodeRuns_encodeFrom (cv : Byte) (cl : Nat) (pixels : List Byte) :
    decodeRuns (encodeFrom cv cl pixels) = List.replicate cl cv ++ pixels := by
  induction cv, cl, pixels using encodeFrom_induction with
  | nil cv cl => simp
  | same cv cl rest ih => rw [encodeFrom_same, ih, List.replicate_succ', List.append_assoc, List.singleton_append]
  | differs cv cl p rest h ih => rw [encodeFrom_differs h, decodeRuns_cons, ih]; rfl

theorem decodeRuns_encodePixels (pixels : List Byte) : decodeRuns (encodePixels pixels) = pixels := by
  cases pixels with
  | nil => rfl
  | cons p rest => exact decodeRuns_encodeFrom p 1 rest

theorem encodeFrom_positive (cv : Byte) (cl : Nat) (pixels : List Byte) (positive : 1 ≤ cl) :
    ∀ r ∈ encodeFrom cv cl pixels, 1 ≤ r.2 := by
  induction cv, cl, pixels using encodeFrom_induction with
  | nil cv cl => simpa using positive
  | same cv cl rest ih => rw [encodeFrom_same]; exact ih (Nat.le_add_left 1 cl)
  | differs cv cl p rest h ih => rw [encodeFrom_differs h]; exact List.forall_mem_cons.mpr ⟨positive, ih le_rfl⟩

theorem encodePixels_positive (pixels : List Byte) : ∀ r ∈ encodePixels pixels, 1 ≤ r.2 := by
  cases pixels with
  | nil => exact nofun
  | cons p rest => exact encodeFrom_positive p 1 rest le_rfl

theorem decodeRuns_length (seq : List Run) : (decodeRuns seq).length = totalLength seq := by
  simp [decodeRuns, totalLength, List.length_flatMap]

/-- Settles O42: the round trip, and with it the count. -/
theorem encodingDecodesToItsPixels : Obligations.EncodingDecodesToItsPixels :=
  fun pixels => ⟨decodeRuns_encodePixels pixels, encodePixels_positive pixels,
    by rw [← decodeRuns_length, decodeRuns_encodePixels]⟩

/-! ### Maximality (rule R110) -/

/-- The first run to be closed is the current one, as long as it is or longer. -/
theorem encodeFrom_head (cv : Byte) (cl : Nat) (pixels : List Byte) :
    ∃ n rest, encodeFrom cv cl pixels = (cv, n) :: rest ∧ cl ≤ n := by
  induction cv, cl, pixels using encodeFrom_induction with
  | nil cv cl => exact ⟨cl, [], rfl, le_rfl⟩
  | same cv cl rest ih =>
    obtain ⟨n, tail, htail, hn⟩ := ih
    exact ⟨n, tail, (encodeFrom_same cv cl rest).trans htail, Nat.le_of_succ_le hn⟩
  | differs cv cl p rest h ih => exact ⟨cl, _, encodeFrom_differs h cl rest, le_rfl⟩

theorem encodeFrom_isChain (cv : Byte) (cl : Nat) (pixels : List Byte) :
    (encodeFrom cv cl pixels).IsChain (fun a b => a.1 ≠ b.1) := by
  induction cv, cl, pixels using encodeFrom_induction with
  | nil cv cl => exact List.isChain_singleton _
  | same cv cl rest ih => rwa [encodeFrom_same]
  | differs cv cl p rest h ih =>
    obtain ⟨n, tail, hnext, -⟩ := encodeFrom_head p 1 rest
    rw [encodeFrom_differs h, hnext]
    exact List.isChain_cons_cons.mpr ⟨h.symm, hnext ▸ ih⟩

theorem encodePixels_isChain (pixels : List Byte) :
    (encodePixels pixels).IsChain (fun a b => a.1 ≠ b.1) := by
  cases pixels with
  | nil => exact List.isChain_nil
  | cons p rest => exact encodeFrom_isChain p 1 rest

theorem encodeFrom_replicate (v : Byte) (cl n : Nat) : encodeFrom v cl (List.replicate n v) = [(v, cl + n)] := by
  induction n generalizing cl with
  | zero => rfl
  | succ n ih => rw [List.replicate_succ, encodeFrom_same, ih, Nat.add_right_comm, Nat.add_assoc]

/-- Settles O43: each boundary of the loop starts a run of another value; without one there is a single chunk. -/
theorem encodingIsMaximal : Obligations.EncodingIsMaximal := by
  refine ⟨fun pixels k a b ha hb => ?_, fun v n => ?_⟩
  · obtain ⟨hk, rfl⟩ := List.getElem?_eq_some_iff.mp hb
    obtain ⟨-, rfl⟩ := List.getElem?_eq_some_iff.mp ha
    exact List.isChain_iff_getElem.mp (encodePixels_isChain pixels) k hk
  · cases n with
    | zero => rfl
    | succ n => simp [List.replicate_succ, encodePixels, encodeFrom_replicate, Nat.add_comm]

/-! ### Minimality (rule R110) -/

theorem encodeFrom_length (cv : Byte) (cl : Nat) (pixels : List Byte) :
    (encodeFrom cv cl pixels).length = maximalRuns (cv :: pixels) := by
  induction cv, cl, pixels using encodeFrom_induction with
  | nil cv cl => rfl
  | same cv cl rest ih => rw [encodeFrom_same, ih, maximalRuns, if_pos rfl, Nat.zero_add]
  | differs cv cl p rest h ih =>
    rw [encodeFrom_differs h, List.length_cons, ih, maximalRuns, if_neg h.symm, Nat.add_comm]

theorem encodePixels_length (pixels : List Byte) : (encodePixels pixels).length = maximalRuns pixels := by
  cases pixels with
  | nil => rfl
  | cons p rest => exact encodeFrom_length p 1 rest

/-- One pixel in front adds at most one run. -/
theorem maximalRuns_cons_le (p : Byte) (pixels : List Byte) : maximalRuns (p :: pixels) ≤ maximalRuns pixels + 1 := by
  cases pixels with
  | nil => exact le_rfl
  | cons q rest =>
    rw [maximalRuns]
    split <;> omega

/-- So do equal pixels in front: the second one on continues the run of the first. -/
theorem maximalRuns_replicate_append_le (v : Byte) (n : Nat) (pixels : List Byte) :
    maximalRuns (List.replicate n v ++ pixels) ≤ maximalRuns pixels + 1 := by
  induction n with
  | zero => exact Nat.le_succ _
  | succ n ih =>
    cases n with
    | zero => exact maximalRuns_cons_le v pixels
    | succ n =>
      rw [List.replicate_succ, List.replicate_succ, List.cons_append, List.cons_append, maximalRuns, if_pos rfl,
        Nat.zero_add]
      exact ih

/-- Each chunk of a sequence gives its pixels at most one run, zero-length chunks too. -/
theorem maximalRuns_decodeRuns_le (seq : List Run) : maximalRuns (decodeRuns seq) ≤ seq.length := by
  induction seq with
  | nil => exact le_rfl
  | cons r seq ih =>
    rw [decodeRuns_cons]
    exact (maximalRuns_replicate_append_le ..).trans (Nat.succ_le_succ ih)

/-- Settles O44: the loop closes a chunk at each boundary, and a chunk cannot hold one. -/
theorem encodingIsMinimal : Obligations.EncodingIsMinimal := by
  refine fun pixels => ⟨encodePixels_length pixels, fun seq hseq => ?_⟩
  rw [encodePixels_length, ← hseq]
  exact maximalRuns_decodeRuns_le seq

/-! ### The encoding of a beginning -/

/-- The pixels after the first ones extend the last chunk of these or add chunks after it. -/
theorem encodeFrom_append (cv : Byte) (cl : Nat) (before : List Byte) :
    ∃ closed v n, encodeFrom cv cl before = closed ++ [(v, n)] ∧
      ∀ rest, encodeFrom cv cl (before ++ rest) = closed ++ encodeFrom v n rest := by
  induction cv, cl, before using encodeFrom_induction with
  | nil cv cl => exact ⟨[], cv, cl, rfl, fun _ => rfl⟩
  | same cv cl before ih =>
    simp only [List.cons_append, encodeFrom_same]
    exact ih
  | differs cv cl p before h ih =>
    obtain ⟨closed, v, n, hbefore, hall⟩ := ih
    refine ⟨(cv, cl) :: closed, v, n, ?_, fun rest => ?_⟩
    · rw [encodeFrom_differs h, hbefore, List.cons_append]
    · rw [List.cons_append, encodeFrom_differs h, hall, List.cons_append]

/-- The encoding of a beginning of the pixels: no more chunks, and none longer than one of the whole encoding. -/
theorem encodePixels_append_dominates (before rest : List Byte) :
    (encodePixels before).length ≤ (encodePixels (before ++ rest)).length ∧
      ∀ r ∈ encodePixels before, ∃ r' ∈ encodePixels (before ++ rest), r.2 ≤ r'.2 := by
  cases before with
  | nil => exact ⟨Nat.zero_le _, nofun⟩
  | cons p before =>
    obtain ⟨closed, v, n, hbefore, hall⟩ := encodeFrom_append p 1 before
    obtain ⟨n', tail, htail, hn⟩ := encodeFrom_head v n rest
    rw [encodePixels, hbefore, List.cons_append, encodePixels, hall, htail]
    refine ⟨by simp, fun r hr => ?_⟩
    rcases List.mem_append.mp hr with hr | hr
    · exact ⟨r, List.mem_append_left _ hr, le_rfl⟩
    · rw [List.mem_singleton.mp hr]
      exact ⟨(v, n'), by simp, hn⟩

end Sys2Proof.Machine
end

section
/-! PROOFS. The encoder's commands: what each answers (EncBeginFollowsItsRule, EncPixelFollowsItsRule,
EncEndFollowsItsRule). -/

namespace Sys2Proof.Machine

variable {s : State}

/-! ### ENC_BEGIN (rule R103) -/

theorem exec_encBegin_busy (noErr : s.err = false) (inDecode : s.decActive = true) (m : EncMode) :
    exec (.encBegin m) s = .next (s.faulted 0x03 (encode (.encBegin m))) :=
  (filtered_of_no_error _ noErr).trans (if_pos inDecode)

theorem exec_encBegin_sequence (noErr : s.err = false) (noDecode : s.decActive = false) (inPass : s.encActive = true)
    (m : EncMode) : exec (.encBegin m) s = .next (s.faulted 0x02 (encode (.encBegin m))) :=
  (filtered_of_no_error _ noErr).trans ((if_neg (by simp [noDecode])).trans (if_pos inPass))

theorem exec_encBegin_begins (noErr : s.err = false) (noDecode : s.decActive = false) (noPass : s.encActive = false)
    (m : EncMode) :
    exec (.encBegin m) s = .next ((s.beginPass m).answers 0 (BitVec.ofNat 64 (m.keeps s.store).length)) := by
  refine (filtered_of_no_error _ noErr).trans ((if_neg (by simp [noDecode])).trans
    ((if_neg (by simp [noPass])).trans ?_))
  cases m <;> rfl

/-- Settles O11: an open decode, an open pass, and the pass begun in each mode. -/
theorem encBeginFollowsItsRule : Obligations.EncBeginFollowsItsRule :=
  ⟨⟨rfl, rfl⟩, fun _ noErr => ⟨fun m inDecode => exec_encBegin_busy noErr inDecode m,
    fun m noDecode inPass => exec_encBegin_sequence noErr noDecode inPass m,
    fun noDecode noPass => ⟨exec_encBegin_begins noErr noDecode noPass .clear,
      exec_encBegin_begins noErr noDecode noPass .append⟩⟩⟩

/-! ### ENC_PIXEL (rule R104) -/

theorem exec_encPixel_sequence (noErr : s.err = false) (noPass : s.encActive = false) (v : Byte) :
    exec (.encPixel v) s = .next (s.faulted 0x02 (encode (.encPixel v))) :=
  (filtered_of_no_error _ noErr).trans (if_pos noPass)

/-- Past the filter and the check for an open pass. -/
theorem exec_encPixel_inPass (noErr : s.err = false) (inPass : s.encActive = true) (v : Byte) :
    exec (.encPixel v) s =
      if s.runOpen = false then respond 0 (s.startRun v)
      else if boundary v s = false then
        if s.runLen = 0xFFFFFFFF then raise .runOverflow (encode (.encPixel v)) s else respond 0 s.extendRun
      else if s.chunkCount = s.chunkCap then raise .storeFull (encode (.encPixel v)) s
      else respond 1 ((s.emitChunk s.runValue s.runLen).startRun v) :=
  (filtered_of_no_error _ noErr).trans (if_neg (by simp [inPass]))

theorem exec_encPixel_starts (noErr : s.err = false) (inPass : s.encActive = true) (noRun : s.runOpen = false)
    (v : Byte) : exec (.encPixel v) s = .next ((s.startRun v).answers 0 0) :=
  (exec_encPixel_inPass noErr inPass v).trans (if_pos noRun)

/-- The boundary detector with a run open (rule R101). -/
theorem boundary_of_inRun (inRun : s.runOpen = true) (v : Byte) : boundary v s = false ↔ v = s.runValue := by
  simp [boundary, inRun]

theorem exec_encPixel_same (noErr : s.err = false) (inPass : s.encActive = true) (inRun : s.runOpen = true) {v : Byte}
    (same : v = s.runValue) : exec (.encPixel v) s =
      if s.runLen = 0xFFFFFFFF then raise .runOverflow (encode (.encPixel v)) s else respond 0 s.extendRun :=
  (exec_encPixel_inPass noErr inPass v).trans ((if_neg (by simp [inRun])).trans
    (if_pos ((boundary_of_inRun inRun v).mpr same)))

theorem exec_encPixel_overflows (noErr : s.err = false) (inPass : s.encActive = true) (inRun : s.runOpen = true)
    {v : Byte} (same : v = s.runValue) (full : s.runLen = 0xFFFFFFFF) :
    exec (.encPixel v) s = .next (s.faulted 0x04 (encode (.encPixel v))) :=
  (exec_encPixel_same noErr inPass inRun same).trans (if_pos full)

theorem exec_encPixel_extends (noErr : s.err = false) (inPass : s.encActive = true) (inRun : s.runOpen = true)
    {v : Byte} (same : v = s.runValue) (room : s.runLen ≠ 0xFFFFFFFF) :
    exec (.encPixel v) s = .next (s.extendRun.answers 0 0) :=
  (exec_encPixel_same noErr inPass inRun same).trans (if_neg room)

theorem exec_encPixel_differs (noErr : s.err = false) (inPass : s.encActive = true) (inRun : s.runOpen = true)
    {v : Byte} (differs : v ≠ s.runValue) : exec (.encPixel v) s =
      if s.chunkCount = s.chunkCap then raise .storeFull (encode (.encPixel v)) s
      else respond 1 ((s.emitChunk s.runValue s.runLen).startRun v) :=
  (exec_encPixel_inPass noErr inPass v).trans ((if_neg (by simp [inRun])).trans
    (if_neg fun h => differs ((boundary_of_inRun inRun v).mp h)))

theorem exec_encPixel_storeFull (noErr : s.err = false) (inPass : s.encActive = true) (inRun : s.runOpen = true)
    {v : Byte} (differs : v ≠ s.runValue) (full : s.chunkCount = s.chunkCap) :
    exec (.encPixel v) s = .next (s.faulted 0x05 (encode (.encPixel v))) :=
  (exec_encPixel_differs noErr inPass inRun differs).trans (if_pos full)

theorem exec_encPixel_closes (noErr : s.err = false) (inPass : s.encActive = true) (inRun : s.runOpen = true)
    {v : Byte} (differs : v ≠ s.runValue) (room : s.chunkCount ≠ s.chunkCap) :
    exec (.encPixel v) s = .next (((s.emitChunk s.runValue s.runLen).startRun v).answers 0 1) :=
  (exec_encPixel_differs noErr inPass inRun differs).trans (if_neg room)

/-- A boundary writes the closed chunk and leaves the new run open. -/
theorem emitChunk_startRun_eq (inRun : s.runOpen = true) (v : Byte) : (s.emitChunk s.runValue s.runLen).startRun v =
    { s with store := s.store ++ [⟨s.runValue, s.runLen⟩], runValue := v, runLen := 1, pixIn := s.pixIn + 1 } := by
  cases s
  cases inRun
  rfl

/-- Settles O12: the six cases of the rule. -/
theorem encPixelFollowsItsRule : Obligations.EncPixelFollowsItsRule := by
  refine ⟨fun v => ?_, fun v s noErr => ⟨fun noPass => exec_encPixel_sequence noErr noPass v,
    fun inPass noRun => exec_encPixel_starts noErr inPass noRun v,
    fun inPass inRun => exec_encPixel_overflows noErr inPass inRun,
    fun inPass inRun => exec_encPixel_extends noErr inPass inRun,
    fun inPass inRun => exec_encPixel_storeFull noErr inPass inRun, fun inPass inRun differs room => ?_⟩⟩
  · simp [encode, commandWord_toNat, opcodeByte, byteOperand, wordOperand]
  · rw [exec_encPixel_closes noErr inPass inRun differs room, emitChunk_startRun_eq inRun]

/-! ### ENC_END (rule R105) -/

theorem exec_encEnd_sequence (noErr : s.err = false) (noPass : s.encActive = false) :
    exec .encEnd s = .next (s.faulted 0x02 (encode .encEnd)) :=
  (filtered_of_no_error _ noErr).trans (if_pos noPass)

theorem exec_encEnd_storeFull (noErr : s.err = false) (inPass : s.encActive = true) (inRun : s.runOpen = true)
    (full : s.chunkCount = s.chunkCap) : exec .encEnd s = .next (s.faulted 0x05 (encode .encEnd)) :=
  (filtered_of_no_error _ noErr).trans ((if_neg (by simp [inPass])).trans (if_pos ⟨inRun, full⟩))

theorem exec_encEnd_flushes (noErr : s.err = false) (inPass : s.encActive = true) (inRun : s.runOpen = true)
    (room : s.chunkCount ≠ s.chunkCap) :
    exec .encEnd s = .next ((s.emitChunk s.runValue s.runLen).endPass.answers 0
      (BitVec.ofNat 64 (s.chunkCount + 1) - s.passBase)) := by
  refine (filtered_of_no_error _ noErr).trans ((if_neg (by simp [inPass])).trans ((if_neg fun h => room h.2).trans ?_))
  simp only [inRun, if_true, respond_eq, State.chunkCount, State.emitChunk_store, List.length_append,
    List.length_singleton]
  rfl

theorem exec_encEnd_ends (noErr : s.err = false) (inPass : s.encActive = true) (noRun : s.runOpen = false) :
    exec .encEnd s = .next (s.endPass.answers 0 (BitVec.ofNat 64 s.chunkCount - s.passBase)) := by
  refine (filtered_of_no_error _ noErr).trans ((if_neg (by simp [inPass])).trans ((if_neg (by simp [noRun])).trans ?_))
  simp only [noRun]
  rfl

/-- A pass that ends with no run open leaves `RUN_OPEN` as it is. -/
theorem endPass_eq (noRun : s.runOpen = false) :
    s.endPass = { s with runValue := 0, runLen := 0, encActive := false } := by
  cases s
  cases noRun
  rfl

/-- Settles O13: no pass, no room for the flush, the flush, and a pass without pixels. -/
theorem encEndFollowsItsRule : Obligations.EncEndFollowsItsRule := by
  refine ⟨rfl, fun s noErr => ⟨exec_encEnd_sequence noErr, exec_encEnd_storeFull noErr, exec_encEnd_flushes noErr,
    fun inPass noRun => ?_⟩⟩
  rw [exec_encEnd_ends noErr inPass noRun, endPass_eq noRun]
  rfl

end Sys2Proof.Machine
end

section
/-! PROOFS. Runs of commands: a run as its first command and the others, a run in the error state, a run that faults. No
statement is settled here; those about passes, loads and decodes rest on it. -/

namespace Sys2Proof.Machine

variable {s t : State} {i : Instr} {rest : List Instr}

/-! ### A command's word, carried out -/

/-- Only a REG_READ of a reserved register is ill-formed, and its word is no command. -/
theorem decode_encode_ne_ok (h : i.wf ≠ true) (j : Instr) : decode (encode i) ≠ .ok j := by
  intro hj
  obtain ⟨r, rfl, reserved⟩ := eq_regRead_of_not_wf h
  obtain ⟨hop, hb, -⟩ := encode_eq_iff.mp (rfl : encode (.regRead r) = _)
  have legal := register_le_of_decode hj hop
  rw [hb, byteOperand] at legal
  omega

/-- The word of a command, well-formed or not, does what the command does. -/
theorem carryOut_encode (i : Instr) (s : State) : carryOut (encode i) s = exec i s := by
  by_cases h : i.wf = true
  · exact carryOut_of_decode (decode_encode h)
  · rw [carryOut_of_illegal (decode_encode_ne_ok h)]
    obtain ⟨r, rfl, reserved⟩ := eq_regRead_of_not_wf h
    exact (exec_regRead_of_reserved reserved).symm

theorem exec_inputs (h : exec i s = .next t) : t.inputs = s.inputs := by
  obtain ⟨-, inputs, -⟩ := registersAreWrittenOnlyByTheirCommands i s t h
  exact inputs

/-! ### A run, command by command -/

theorem step_issue (hin : s.inputs = issue (i :: rest)) : step s = exec i { s with inputs := issue rest } :=
  (step_input hin).trans (carryOut_encode ..)

theorem run_succ_of_step {M : Host.Core} {s t : M.State} (h : M.step s = .next t) (n : Nat) :
    M.run (n + 1) s = M.run n t := by
  rw [Host.Core.run, h]

theorem run_succ_next {M : Host.Core} {s u : M.State} {n : Nat} (h : M.run (n + 1) s = .next u) :
    ∃ t, M.step s = .next t ∧ M.run n t = .next u := by
  rw [Host.Core.run] at h
  split at h
  · next t ht => exact ⟨t, ht, h⟩
  · cases h
  · cases h

theorem inputs_length_of_exec (hin : s.inputs = issue (i :: rest))
    (h : exec i { s with inputs := issue rest } = .next t) : s.inputs.length = t.inputs.length + 1 := by
  rw [hin, exec_inputs h]
  rfl

/-- A run is its first command, then the run of the others. -/
theorem runInputs_of_exec (hin : s.inputs = issue (i :: rest)) (h : exec i { s with inputs := issue rest } = .next t) :
    runInputs s = runInputs t := by
  rw [runInputs, inputs_length_of_exec hin h]
  exact run_succ_of_step (M := Sys2Proof.core) ((step_issue hin).trans h) _

/-- The run that answers went through its first command. -/
theorem runInputs_issue_cons {u : State} (hin : s.inputs = issue (i :: rest)) (h : runInputs s = .next u) :
    ∃ t, exec i { s with inputs := issue rest } = .next t ∧ runInputs t = .next u := by
  have length : s.inputs.length = (issue rest).length + 1 := congrArg List.length hin
  rw [runInputs, length] at h
  obtain ⟨t, ht, hrun⟩ : ∃ t : State, step s = .next t ∧ Sys2Proof.core.run _ t = .next u := run_succ_next h
  have hexec := (step_issue hin).symm.trans ht
  exact ⟨t, hexec, by rw [runInputs, exec_inputs hexec]; exact hrun⟩

/-! ### A run in the error state (rule R162) -/

theorem exec_of_error (inErr : s.err = true) (blocked : i.passesFilter = false) :
    exec i s = .next (s.answers 0x08 0) := by
  cases i with
  | nop => cases blocked
  | softReset => cases blocked
  | regRead r =>
    exact (exec_regRead_of_reserved (Nat.lt_of_not_le (of_decide_eq_false blocked))).trans (filtered_of_error _ inErr)
  | _ => exact filtered_of_error _ inErr

/-- Every command the filter stops is answered `BLOCKED`, and the block stays as it is. -/
theorem runInputs_of_error (inErr : s.err = true) (hin : s.inputs = issue rest)
    (blocked : ∀ i ∈ rest, i.passesFilter = false) :
    runInputs s = .next
      { s with inputs := [], responses := s.responses ++ List.replicate rest.length ⟨0x08, 0⟩ } := by
  induction rest generalizing s with
  | nil =>
    rw [runInputs_nil hin, List.length_nil, List.replicate_zero, List.append_nil, ← show s.inputs = [] from hin]
  | cons i rest ih =>
    obtain ⟨hi, hrest⟩ := List.forall_mem_cons.mp blocked
    rw [runInputs_of_exec hin (exec_of_error (by exact inErr) hi), ih (by exact inErr) (by rfl) hrest]
    simp [State.answers, List.replicate_succ]

/-- A run whose first command faults, and whose others the filter stops. -/
theorem runInputs_of_fault {code : Byte} (hin : s.inputs = issue (i :: rest))
    (h : exec i { s with inputs := issue rest } =
      .next (State.faulted { s with inputs := issue rest } code (encode i)))
    (blocked : ∀ i ∈ rest, i.passesFilter = false) :
    runInputs s = .next
      { s with err := true, errCause := code, errCmd := encode i, inputs := [],
               responses := s.responses ++ ⟨code, 0⟩ :: List.replicate rest.length ⟨0x08, 0⟩ } := by
  rw [runInputs_of_exec hin h, runInputs_of_error rfl rfl blocked]
  simp [State.faulted]

theorem exec_keeps_error (inErr : s.err = true) (h : exec i s = .next t) (notReset : i ≠ .softReset) :
    t.err = true := by
  obtain ⟨-, -, -, -, -, -, -, -, -, -, errors⟩ := registersAreWrittenOnlyByTheirCommands i s t h
  rcases errors notReset with ⟨same, -⟩ | ⟨-, entered⟩
  · exact same.trans inErr
  · exact entered

/-- Without a SOFT_RESET a run does not leave the error state (rule R163). -/
theorem runInputs_err (inErr : s.err = true) (hin : s.inputs = issue rest) (noReset : .softReset ∉ rest)
    (h : runInputs s = .next t) : t.err = true := by
  induction rest generalizing s with
  | nil =>
    obtain rfl := Host.Outcome.next.inj ((runInputs_nil hin).symm.trans h)
    exact inErr
  | cons i rest ih =>
    obtain ⟨u, hu, hrun⟩ := runInputs_issue_cons hin h
    rw [List.mem_cons, not_or] at noReset
    obtain ⟨notReset, noReset⟩ := noReset
    exact ih (exec_keeps_error (by exact inErr) hu (Ne.symm notReset)) (exec_inputs hu) noReset hrun

end Sys2Proof.Machine
end

section
/-! PROOFS. A command depends on the block alone, and so the commands without side effect may be interleaved with others
(InterleavedReadsLeaveTheResult). -/

namespace Sys2Proof.Machine

variable {s t : State} {i : Instr}

/-! ### The block alone decides what a command does (rule R44) -/

/-- The block of `s` with other ports: what the host will drive, what it has received, and the model's counter. -/
def State.atPorts (s : State) (ins : List Input) (rs : List Response) (n : Nat) : State :=
  { s with inputs := ins, responses := rs, freeCount := n }

@[simp] theorem State.atPorts_runOpen (s : State) (ins : List Input) (rs : List Response) (n : Nat) :
    (s.atPorts ins rs n).runOpen = s.runOpen := rfl
@[simp] theorem State.atPorts_store (s : State) (ins : List Input) (rs : List Response) (n : Nat) :
    (s.atPorts ins rs n).store = s.store := rfl
@[simp] theorem State.atPorts_decChunk (s : State) (ins : List Input) (rs : List Response) (n : Nat) :
    (s.atPorts ins rs n).decChunk = s.decChunk := rfl

theorem State.SameBlock.atPorts_eq (h : s.SameBlock t) : s.atPorts t.inputs t.responses t.freeCount = t := h

/-- When the first result is a next state, so is the second: the same block, and each has received the same one response
after what it had received before. -/
def AnswerAlike (before before' : List Response) (r r' : Result) : Prop :=
  ∀ t, r = .next t → ∃ d t', r' = .next t' ∧ t.SameBlock t' ∧ t.responses = before ++ [d] ∧
    t'.responses = before' ++ [d]

section

variable {before before' : List Response} {a a' b b' : Result} {ins : List Input} {rs : List Response} {n : Nat}

theorem respond_alike (data : Word) (s : State) :
    AnswerAlike s.responses rs (respond data s) (respond data (s.atPorts ins rs n)) := by
  rintro _ ⟨⟩
  exact ⟨_, _, rfl, rfl, rfl, rfl⟩

theorem raise_alike (c : Cause) (cmd : Word) (s : State) :
    AnswerAlike s.responses rs (raise c cmd s) (raise c cmd (s.atPorts ins rs n)) := by
  rintro _ ⟨⟩
  exact ⟨_, _, rfl, rfl, rfl, rfl⟩

theorem ite_alike {p : Prop} [Decidable p] (ha : AnswerAlike before before' a a')
    (hb : AnswerAlike before before' b b') :
    AnswerAlike before before' (if p then a else b) (if p then a' else b') := by
  split
  · exact ha
  · exact hb

theorem filtered_alike (h : AnswerAlike s.responses rs a a') :
    AnswerAlike s.responses rs (filtered s a) (filtered (s.atPorts ins rs n) a') := by
  refine ite_alike ?_ h
  rintro _ ⟨⟩
  exact ⟨_, _, rfl, rfl, rfl, rfl⟩

theorem exec_regRead_of_none {r : Byte} (h : regOfNumber r = none) :
    exec (.regRead r) s = filtered s (raise .illegalCmd (encode (.regRead r)) s) := by
  refine exec_regRead_of_reserved (Nat.lt_of_not_le fun hr => ?_)
  rw [← regOfNumber_isSome, h] at hr
  cases hr

/-- Every meaning tests and reads the block only. -/
theorem exec_alike (i : Instr) (s : State) :
    AnswerAlike s.responses rs (exec i s) (exec i (s.atPorts ins rs n)) := by
  cases i with
  | nop => exact respond_alike _ s
  | encBegin m =>
    refine filtered_alike <| ite_alike (raise_alike _ _ s) <| ite_alike (raise_alike _ _ s) ?_
    cases m with
    | clear => exact respond_alike _ (s.beginPass .clear)
    | append => exact respond_alike _ (s.beginPass .append)
  | encPixel v =>
    exact filtered_alike <| ite_alike (raise_alike _ _ s) <| ite_alike (respond_alike _ (s.startRun v)) <|
      ite_alike (ite_alike (raise_alike _ _ s) (respond_alike _ s.extendRun)) <|
      ite_alike (raise_alike _ _ s) (respond_alike _ ((s.emitChunk s.runValue s.runLen).startRun v))
  | encEnd =>
    refine filtered_alike <| ite_alike (raise_alike _ _ s) <| ite_alike (raise_alike _ _ s) ?_
    rw [State.atPorts_runOpen]
    cases s.runOpen with
    | true => exact respond_alike _ (s.emitChunk s.runValue s.runLen).endPass
    | false => exact respond_alike _ s.endPass
  | decBegin =>
    exact filtered_alike <| ite_alike (raise_alike _ _ s) <| ite_alike (raise_alike _ _ s) <|
      respond_alike _ s.beginDecode
  | decPixel =>
    refine filtered_alike <| ite_alike (raise_alike _ _ s) ?_
    rw [State.atPorts_store, State.atPorts_decChunk]
    cases Memory.readEntry s.store s.decChunk.toNat with
    | none => exact nofun
    | some c => exact respond_alike _ (s.advanceCursor c.run)
  | chunkLoad v k =>
    exact filtered_alike <| ite_alike (raise_alike _ _ s) <| ite_alike (raise_alike _ _ s) <|
      ite_alike (raise_alike _ _ s) (respond_alike _ (s.emitChunk v k))
  | chunkRead j =>
    refine filtered_alike ?_
    rw [State.atPorts_store]
    cases Memory.readEntry s.store j.toNat with
    | none => exact raise_alike _ _ s
    | some c => exact respond_alike _ s
  | chunkClear => exact filtered_alike <| ite_alike (raise_alike _ _ s) (respond_alike _ s.clearStore)
  | regRead r =>
    cases h : regOfNumber r with
    | none =>
      rw [exec_regRead_of_none h, exec_regRead_of_none h]
      exact filtered_alike (raise_alike _ _ s)
    | some reg =>
      rw [exec_regRead_of_number h, exec_regRead_of_number h]
      cases reg <;> exact respond_alike _ s
  | softReset => exact respond_alike _ s.applyReset

end

theorem exec_of_sameBlock {s' : State} (same : s.SameBlock s') (h : exec i s = .next t) :
    ∃ d t', exec i s' = .next t' ∧ t.SameBlock t' ∧ t.responses = s.responses ++ [d] ∧
      t'.responses = s'.responses ++ [d] := by
  have alike := exec_alike (ins := s'.inputs) (rs := s'.responses) (n := s'.freeCount) i s t h
  rwa [same.atPorts_eq] at alike

/-! ### Interleaved reads -/

/-- A read that ends outside the error state leaves the block as it was. -/
theorem exec_read_answers (read : i.isRead = true) (h : exec i s = .next t) (ok : t.err = false) :
    ∃ data, t = s.answers 0 data := by
  cases exec_effect h with
  | readDone _ data => exact ⟨data, rfl⟩
  | blocked _ inErr => exact absurd (inErr.symm.trans ok) (by decide)
  | faulted => cases ok
  | _ => cases read

theorem interleaved_reads (commands : List Instr) : ∀ {s s' t : State}, s.SameBlock s' →
    s'.responses.Sublist s.responses → s.inputs = issue commands →
    s'.inputs = issue (commands.filter fun i => !i.isRead) → .softReset ∉ commands → runInputs s = .next t →
    t.err = false → ∃ u, runInputs s' = .next u ∧ t.SameBlock u ∧ u.responses.Sublist t.responses := by
  induction commands with
  | nil =>
    intro s s' t same sub hin hin' _ h _
    obtain rfl := Host.Outcome.next.inj ((runInputs_nil hin).symm.trans h)
    exact ⟨s', runInputs_nil hin', same, sub⟩
  | cons i rest ih =>
    intro s s' t same sub hin hin' noReset h ok
    rw [List.mem_cons, not_or] at noReset
    obtain ⟨u, hu, hrun⟩ := runInputs_issue_cons hin h
    have hinu : u.inputs = issue rest := exec_inputs hu
    have oku : u.err = false :=
      Bool.eq_false_iff.mpr fun inErr => Bool.false_ne_true (ok.symm.trans (runInputs_err inErr hinu noReset.2 hrun))
    by_cases read : i.isRead = true
    · obtain ⟨data, rfl⟩ := exec_read_answers read hu oku
      rw [List.filter_cons_of_neg (by simp [read])] at hin'
      exact ih (by exact same) (by exact sub.trans (List.sublist_append_left ..)) hinu hin' noReset.2 hrun ok
    · rw [List.filter_cons_of_pos (by simp [read])] at hin'
      obtain ⟨d, u', hu', same', responses, responses'⟩ := exec_of_sameBlock
        (s' := { s' with inputs := issue (rest.filter fun i => !i.isRead) }) (by rw [← same]; rfl) hu
      rw [runInputs_of_exec hin' hu']
      refine ih same' ?_ hinu (exec_inputs hu') noReset.2 hrun ok
      rw [responses, responses']
      exact sub.append_right _

/-- Settles O52: the two runs hold the same block after each command that is kept, and reads do not change it. -/
theorem interleavedReadsLeaveTheResult : Obligations.InterleavedReadsLeaveTheResult :=
  fun commands _ _ _ hin noReset h ok => interleaved_reads commands rfl (List.Sublist.refl _) hin rfl noReset h ok

end Sys2Proof.Machine
end

section
/-! PROOFS. The encode pass against its reference (rule R107): a pass that fits stores the encoding
(EncodePassStoresTheEncoding), one that does not faults once (EncodePassThatDoesNotFitFaultsOnce). -/

namespace Sys2Proof.Machine

variable {s t : State} {v : Byte} {rest : List Byte}

/-! ### A pass under way, and the chunks it is to leave -/

/-- A pass is open and nothing has gone wrong. -/
structure State.InPass (s : State) : Prop where
  noErr : s.err = false
  inPass : s.encActive = true
  noDecode : s.decActive = false
  withinCap : s.chunkCount ≤ s.chunkCap

/-- The chunks the store is to hold when the open pass has taken the pixels `rest` and ended: those it holds, then what
rule R106's loop makes of the open run and `rest`. -/
def State.passRuns (s : State) (rest : List Byte) : List Run :=
  Memory.runs s.store ++ if s.runOpen then encodeFrom s.runValue s.runLen.toNat rest else encodePixels rest

theorem State.passRuns_of_noRun (noRun : s.runOpen = false) (rest : List Byte) :
    s.passRuns rest = Memory.runs s.store ++ encodePixels rest := by
  simp [State.passRuns, noRun]

theorem State.passRuns_of_inRun (inRun : s.runOpen = true) (rest : List Byte) :
    s.passRuns rest = Memory.runs s.store ++ encodeFrom s.runValue s.runLen.toNat rest := by
  simp [State.passRuns, inRun]

theorem Memory.runs_append (m n : Memory) : Memory.runs (m ++ n) = Memory.runs m ++ Memory.runs n :=
  List.map_append

@[simp] theorem Memory.runs_length (m : Memory) : (Memory.runs m).length = m.length :=
  List.length_map _

/-- A stored run fits its 32 bits. -/
theorem Memory.run_lt_of_mem_runs {m : Memory} {r : Run} (h : r ∈ Memory.runs m) : r.2 < 2 ^ 32 := by
  obtain ⟨c, -, rfl⟩ := List.mem_map.mp h
  exact c.run.isLt

theorem Memory.runs_flush (m : Memory) (v : Byte) (n : RunLength) :
    Memory.runs (m ++ [⟨v, n⟩]) = Memory.runs m ++ [(v, n.toNat)] :=
  Memory.runs_append m _

/-! A pixel moves from `rest` into the pass; the chunks to come are the same. -/

theorem State.startRun_passRuns (noRun : s.runOpen = false) (v : Byte) (rest : List Byte) :
    (s.startRun v).passRuns rest = s.passRuns (v :: rest) := by
  rw [State.passRuns_of_inRun rfl, State.passRuns_of_noRun noRun]
  rfl

theorem State.extendRun_passRuns (inRun : s.runOpen = true) (same : v = s.runValue) (room : s.runLen ≠ 0xFFFFFFFF)
    (rest : List Byte) : s.extendRun.passRuns rest = s.passRuns (v :: rest) := by
  rw [State.passRuns_of_inRun (s := s.extendRun) inRun, State.passRuns_of_inRun inRun, same, encodeFrom_same,
    State.extendRun_runLen, toNat_add_one_of_lt (succ_toNat_lt_of_ne_max room)]
  rfl

theorem State.closeRun_passRuns (inRun : s.runOpen = true) (differs : v ≠ s.runValue) (rest : List Byte) :
    ((s.emitChunk s.runValue s.runLen).startRun v).passRuns rest = s.passRuns (v :: rest) := by
  rw [State.passRuns_of_inRun rfl, State.passRuns_of_inRun inRun, encodeFrom_differs differs, State.startRun_store,
    State.emitChunk_store, Memory.runs_flush, List.append_assoc]
  rfl

/-! ### One pixel -/

/-- What an accepted pixel makes of a pass: it is counted and answered with its mark. -/
structure State.Accepts (s : State) (v : Byte) (mark : Word) (t : State) : Prop where
  inPass : t.InPass
  runs : ∀ rest, t.passRuns rest = s.passRuns (v :: rest)
  chunkCap : t.chunkCap = s.chunkCap
  passBase : t.passBase = s.passBase
  pixIn : t.pixIn = s.pixIn + 1
  responses : t.responses = s.responses ++ [⟨0, mark⟩]

theorem State.InPass.startRun (hs : s.InPass) (noRun : s.runOpen = false) (v : Byte) :
    s.Accepts v 0 ((s.startRun v).answers 0 0) :=
  ⟨{ hs with }, State.startRun_passRuns noRun v, rfl, rfl, rfl, rfl⟩

theorem State.InPass.extendRun (hs : s.InPass) (inRun : s.runOpen = true) (same : v = s.runValue)
    (room : s.runLen ≠ 0xFFFFFFFF) : s.Accepts v 0 (s.extendRun.answers 0 0) :=
  ⟨{ hs with }, State.extendRun_passRuns inRun same room, rfl, rfl, rfl, rfl⟩

theorem State.InPass.emitChunk_withinCap (hs : s.InPass) (room : s.chunkCount ≠ s.chunkCap) (v : Byte)
    (n : RunLength) : (s.emitChunk v n).chunkCount ≤ s.chunkCap := by
  have := lt_of_le_of_ne hs.withinCap room
  simpa [State.chunkCount] using this

theorem State.InPass.closeRun (hs : s.InPass) (inRun : s.runOpen = true) (differs : v ≠ s.runValue)
    (room : s.chunkCount ≠ s.chunkCap) : s.Accepts v 1 (((s.emitChunk s.runValue s.runLen).startRun v).answers 0 1) :=
  ⟨{ hs with withinCap := hs.emitChunk_withinCap room _ _ }, State.closeRun_passRuns inRun differs, rfl, rfl, rfl,
    rfl⟩

/-- With a run open and the store full, the chunks to come are one too many. -/
theorem State.passRuns_nil_length_of_full (inRun : s.runOpen = true) (full : s.chunkCount = s.chunkCap) :
    (s.passRuns []).length = s.chunkCap + 1 := by
  rw [State.passRuns_of_inRun inRun, List.length_append, Memory.runs_length]
  exact congrArg (· + 1) full

/-- A run of `2^32 - 1` cannot take one more pixel. -/
theorem State.passRuns_singleton_overflows (inRun : s.runOpen = true) (same : v = s.runValue)
    (full : s.runLen = 0xFFFFFFFF) : ∃ r ∈ s.passRuns [v], r.2 = 2 ^ 32 := by
  refine ⟨(v, 2 ^ 32), ?_, rfl⟩
  simp [State.passRuns_of_inRun inRun, same, encodeFrom_same, full]

/-- ENC_PIXEL in a pass: accepted, `RUN_OVERFLOW` or `STORE_FULL`. -/
theorem State.InPass.encPixel_cases (hs : s.InPass) (v : Byte) :
    (∃ mark t, exec (.encPixel v) s = .next t ∧ s.Accepts v mark t) ∨
    (exec (.encPixel v) s = .next (s.faulted 0x04 (encode (.encPixel v))) ∧ ∃ r ∈ s.passRuns [v], r.2 = 2 ^ 32) ∨
    (exec (.encPixel v) s = .next (s.faulted 0x05 (encode (.encPixel v))) ∧
      (s.passRuns []).length = s.chunkCap + 1) := by
  cases inRun : s.runOpen with
  | false => exact .inl ⟨_, _, exec_encPixel_starts hs.noErr hs.inPass inRun v, hs.startRun inRun v⟩
  | true =>
    by_cases same : v = s.runValue
    · by_cases full : s.runLen = 0xFFFFFFFF
      · exact .inr (.inl ⟨exec_encPixel_overflows hs.noErr hs.inPass inRun same full,
          State.passRuns_singleton_overflows inRun same full⟩)
      · exact .inl ⟨_, _, exec_encPixel_extends hs.noErr hs.inPass inRun same full, hs.extendRun inRun same full⟩
    · by_cases full : s.chunkCount = s.chunkCap
      · exact .inr (.inr ⟨exec_encPixel_storeFull hs.noErr hs.inPass inRun same full,
          State.passRuns_nil_length_of_full inRun full⟩)
      · exact .inl ⟨_, _, exec_encPixel_closes hs.noErr hs.inPass inRun same full, hs.closeRun inRun same full⟩

/-! ### The two ends of a pass -/

/-- What is left of a pass's commands when the pixels `rest` are still to come. -/
def passTail (rest : List Byte) : List Instr := rest.map .encPixel ++ [.encEnd]

theorem passTail_length (rest : List Byte) : (passTail rest).length = rest.length + 1 := by
  simp [passTail]

theorem passTail_blocked (rest : List Byte) : ∀ i ∈ passTail rest, i.passesFilter = false := by
  intro i hi
  rcases List.mem_append.mp hi with hi | hi
  · obtain ⟨v, -, rfl⟩ := List.mem_map.mp hi
    rfl
  · rw [List.mem_singleton.mp hi]
    rfl

/-- The pass open at `s` took the pixels `rest`, was ended, and left `t`: every command answered `OK`. -/
structure State.PassCompletes (s : State) (rest : List Byte) (t : State) : Prop where
  idle : t.Idle
  noRun : t.runOpen = false
  runs : Memory.runs t.store = s.passRuns rest
  withinCap : t.chunkCount ≤ s.chunkCap
  passBase : t.passBase = s.passBase
  pixIn : t.pixIn = s.pixIn + BitVec.ofNat 64 rest.length
  responses : ∃ marks : List Word, marks.length = rest.length ∧
    t.responses = s.responses ++ marks.map (fun d => ⟨0, d⟩)
      ++ [⟨0, BitVec.ofNat 64 (s.passRuns rest).length - s.passBase⟩]

/-- Command `j` of those left of the pass open at `s` faulted, and the run left `t`: the commands before it answered
`OK`, those after it `BLOCKED`. -/
structure State.PassFaults (s : State) (rest : List Byte) (j : Nat) (t : State) : Prop where
  inErr : t.err = true
  index : j ≤ rest.length
  command : (passTail rest)[j]?.map encode = some t.errCmd
  cause : (t.errCause = 0x04 ∧ j < rest.length ∧ ∃ r ∈ s.passRuns (rest.take (j + 1)), r.2 = 2 ^ 32) ∨
    (t.errCause = 0x05 ∧ (s.passRuns (rest.take j)).length = s.chunkCap + 1)
  codes : t.responses.map Response.code = s.responses.map Response.code ++ List.replicate j 0 ++ [t.errCause]
    ++ List.replicate (rest.length - j) 0x08

/-- ENC_END in a pass: the pass completes, or `STORE_FULL`. -/
theorem State.InPass.encEnd_cases (hs : s.InPass) :
    (∃ t, exec .encEnd s = .next t ∧ s.PassCompletes [] t) ∨
    (exec .encEnd s = .next (s.faulted 0x05 (encode .encEnd)) ∧ (s.passRuns []).length = s.chunkCap + 1) := by
  cases inRun : s.runOpen with
  | false =>
    have runs : s.passRuns [] = Memory.runs s.store :=
      (State.passRuns_of_noRun inRun _).trans (List.append_nil _)
    refine .inl ⟨_, exec_encEnd_ends hs.noErr hs.inPass inRun, ⟨hs.noErr, rfl, hs.noDecode⟩, rfl, runs.symm,
      hs.withinCap, rfl, (BitVec.add_zero _).symm, [], rfl, ?_⟩
    rw [runs, Memory.runs_length, List.map_nil, List.append_nil]
    rfl
  | true =>
    by_cases full : s.chunkCount = s.chunkCap
    · exact .inr ⟨exec_encEnd_storeFull hs.noErr hs.inPass inRun full, State.passRuns_nil_length_of_full inRun full⟩
    · have runs : Memory.runs (s.emitChunk s.runValue s.runLen).store = s.passRuns [] := by
        rw [State.emitChunk_store, Memory.runs_flush, State.passRuns_of_inRun inRun, encodeFrom_nil]
      refine .inl ⟨_, exec_encEnd_flushes hs.noErr hs.inPass inRun full, ⟨hs.noErr, rfl, hs.noDecode⟩, rfl, runs,
        hs.emitChunk_withinCap full _ _, rfl, (BitVec.add_zero _).symm, [], rfl, ?_⟩
      rw [← runs, Memory.runs_length, List.map_nil, List.append_nil, State.emitChunk_store, List.length_append]
      rfl

/-! ### A pass, pixel by pixel -/

theorem State.PassCompletes.cons {mark : Word} {u : State} (first : s.Accepts v mark t) (h : t.PassCompletes rest u) :
    s.PassCompletes (v :: rest) u := by
  obtain ⟨marks, length, responses⟩ := h.responses
  refine ⟨h.idle, h.noRun, h.runs.trans (first.runs rest), h.withinCap.trans first.chunkCap.le,
    h.passBase.trans first.passBase, ?_, mark :: marks, congrArg (· + 1) length, ?_⟩
  · rw [h.pixIn, first.pixIn, List.length_cons, Nat.add_comm, BitVec.ofNat_add, BitVec.add_assoc]
    rfl
  · rw [responses, first.responses, first.runs, first.passBase]
    simp

theorem State.PassFaults.cons {mark : Word} {u : State} {j : Nat} (first : s.Accepts v mark t)
    (h : t.PassFaults rest j u) : s.PassFaults (v :: rest) (j + 1) u := by
  refine ⟨h.inErr, Nat.succ_le_succ h.index, h.command, ?_, ?_⟩
  · rcases h.cause with ⟨cause, hj, run⟩ | ⟨cause, runs⟩
    · exact .inl ⟨cause, Nat.succ_lt_succ hj, by rwa [first.runs] at run⟩
    · exact .inr ⟨cause, by rwa [first.runs, first.chunkCap] at runs⟩
  · rw [h.codes, first.responses]
    simp [List.replicate_succ]

/-- The run of a pass whose next command faults. -/
theorem State.PassFaults.first (rest : List Byte) {i : Instr} {rest' : List Instr} {code : Byte}
    (hin : s.inputs = issue (i :: rest')) (tail : passTail rest = i :: rest')
    (h : exec i { s with inputs := issue rest' } =
      .next (State.faulted { s with inputs := issue rest' } code (encode i)))
    (cause : (code = 0x04 ∧ 0 < rest.length ∧ ∃ r ∈ s.passRuns (rest.take 1), r.2 = 2 ^ 32) ∨
      (code = 0x05 ∧ (s.passRuns []).length = s.chunkCap + 1)) :
    ∃ t, runInputs s = .next t ∧ s.PassFaults rest 0 t := by
  have length : rest'.length = rest.length := by
    have := passTail_length rest
    rwa [tail, List.length_cons, Nat.add_right_cancel_iff] at this
  have blocked : ∀ i ∈ rest', i.passesFilter = false := fun i hi =>
    passTail_blocked rest i (tail ▸ List.mem_cons_of_mem _ hi)
  refine ⟨_, runInputs_of_fault hin h blocked, rfl, Nat.zero_le _, by rw [tail]; rfl, cause, ?_⟩
  simp [length]

/-- A pass completes, or one of its commands faults. -/
theorem State.InPass.outcome (rest : List Byte) : ∀ {s : State}, s.InPass → s.inputs = issue (passTail rest) →
    (∃ t, runInputs s = .next t ∧ t.inputs = [] ∧ s.PassCompletes rest t) ∨
      ∃ t j, runInputs s = .next t ∧ s.PassFaults rest j t := by
  induction rest with
  | nil =>
    intro s hs hin
    rcases State.InPass.encEnd_cases (s := { s with inputs := [] }) { hs with } with ⟨t, ht, completes⟩ | ⟨fault, full⟩
    · have hint : t.inputs = [] := exec_inputs ht
      exact .inl ⟨t, (runInputs_of_exec hin ht).trans (runInputs_nil hint), hint, { completes with }⟩
    · obtain ⟨t, ht, faults⟩ := State.PassFaults.first [] hin rfl fault (.inr ⟨rfl, full⟩)
      exact .inr ⟨t, 0, ht, faults⟩
  | cons v rest ih =>
    intro s hs hin
    rcases State.InPass.encPixel_cases (s := { s with inputs := issue (passTail rest) }) { hs with } v with
      ⟨mark, u, hu, accepts⟩ | ⟨fault, overflow⟩ | ⟨fault, full⟩
    · have accepts : s.Accepts v mark u := { accepts with }
      rw [runInputs_of_exec hin hu]
      rcases ih accepts.inPass (exec_inputs hu) with ⟨t, ht, hint, completes⟩ | ⟨t, j, ht, faults⟩
      · exact .inl ⟨t, ht, hint, completes.cons accepts⟩
      · exact .inr ⟨t, j + 1, ht, faults.cons accepts⟩
    · obtain ⟨t, ht, faults⟩ := State.PassFaults.first (v :: rest) hin rfl fault (.inl ⟨rfl, Nat.succ_pos _, overflow⟩)
      exact .inr ⟨t, 0, ht, faults⟩
    · obtain ⟨t, ht, faults⟩ := State.PassFaults.first (v :: rest) hin rfl fault (.inr ⟨rfl, full⟩)
      exact .inr ⟨t, 0, ht, faults⟩

/-! ### A whole pass (rule R107) -/

/-- The state in which ENC_BEGIN leaves an idle block. -/
def State.begun (s : State) (m : EncMode) (pixels : List Byte) : State :=
  ({ s with inputs := issue (passTail pixels) }.beginPass m).answers 0 (BitVec.ofNat 64 (m.keeps s.store).length)

theorem runInputs_encodeCommands {m : EncMode} {pixels : List Byte} (idle : s.Idle)
    (hin : s.inputs = issue (encodeCommands m pixels)) : runInputs s = runInputs (s.begun m pixels) := by
  obtain ⟨noErr, noPass, noDecode⟩ := idle
  exact runInputs_of_exec hin (exec_encBegin_begins (by exact noErr) (by exact noDecode) (by exact noPass) m)

theorem State.begun_inPass {m : EncMode} {pixels : List Byte} (idle : s.Idle)
    (kept : (m.keeps s.store).length ≤ s.chunkCap) : (s.begun m pixels).InPass := by
  obtain ⟨noErr, -, noDecode⟩ := idle
  exact ⟨noErr, rfl, noDecode, kept⟩

theorem State.begun_passRuns (m : EncMode) (pixels rest : List Byte) :
    (s.begun m pixels).passRuns rest = Memory.runs (m.keeps s.store) ++ encodePixels rest := rfl

theorem State.begun_responses (m : EncMode) (pixels : List Byte) :
    (s.begun m pixels).responses = s.responses ++ [⟨0, BitVec.ofNat 64 (m.keeps s.store).length⟩] := rfl

/-- No command of a pass that fits faults. -/
theorem not_passFaults_of_fits {m : EncMode} {pixels : List Byte} (fits : s.PassFits m pixels) {j : Nat} :
    ¬ (s.begun m pixels).PassFaults pixels j t := by
  intro faults
  obtain ⟨short, room⟩ := fits
  rcases faults.cause with ⟨-, -, r, hr, overflow⟩ | ⟨-, full⟩
  · rw [State.begun_passRuns] at hr
    rcases List.mem_append.mp hr with stored | hr
    · exact absurd overflow (Memory.run_lt_of_mem_runs stored).ne
    · obtain ⟨r', hr', hle⟩ := (encodePixels_append_dominates _ (pixels.drop (j + 1))).2 r hr
      rw [List.take_append_drop] at hr'
      have := short r' hr'
      omega
  · have fewer := (encodePixels_append_dominates (pixels.take j) (pixels.drop j)).1
    rw [List.take_append_drop] at fewer
    rw [State.begun_passRuns, List.length_append, Memory.runs_length] at full
    have cap : (s.begun m pixels).chunkCap = s.chunkCap := rfl
    omega

/-- A pass that completes has stored its chunks, so it fits. -/
theorem fits_of_passCompletes {m : EncMode} {pixels : List Byte}
    (completes : (s.begun m pixels).PassCompletes pixels t) : s.PassFits m pixels := by
  have runs := completes.runs
  rw [State.begun_passRuns] at runs
  constructor
  · intro r hr
    exact Nat.le_of_lt_succ (Memory.run_lt_of_mem_runs (runs ▸ List.mem_append_right _ hr))
  · have length := congrArg List.length runs
    rw [Memory.runs_length, List.length_append, Memory.runs_length] at length
    exact length ▸ completes.withinCap

/-- Settles O47: the pass completes, as a fault would need a chunk too long or one too many. -/
theorem encodePassStoresTheEncoding : Obligations.EncodePassStoresTheEncoding := by
  intro m pixels s idle fits hin
  have kept : (m.keeps s.store).length ≤ s.chunkCap := (Nat.le_add_right ..).trans fits.2
  rw [runInputs_encodeCommands idle hin]
  rcases (State.begun_inPass idle kept).outcome pixels rfl with ⟨t, ht, hint, completes⟩ | ⟨t, j, -, faults⟩
  · obtain ⟨marks, length, responses⟩ := completes.responses
    refine ⟨t, ht, completes.idle, hint, completes.noRun, completes.runs, completes.passBase,
      completes.pixIn.trans (BitVec.zero_add _), BitVec.ofNat 64 (m.keeps s.store).length :: marks,
      congrArg (· + 1) length, ?_⟩
    have count : BitVec.ofNat 64 ((s.begun m pixels).passRuns pixels).length - (s.begun m pixels).passBase =
        BitVec.ofNat 64 (encodePixels pixels).length := by
      rw [State.begun_passRuns, List.length_append, Memory.runs_length, BitVec.ofNat_add, BitVec.add_comm]
      exact BitVec.add_sub_cancel ..
    rw [responses, count, List.map_cons]
    simp [State.begun_responses]
  · exact absurd faults (not_passFaults_of_fits fits)

/-- Settles O48: the pass cannot complete, so one of its commands faults. -/
theorem encodePassThatDoesNotFitFaultsOnce : Obligations.EncodePassThatDoesNotFitFaultsOnce := by
  intro m pixels s idle withinCap notFits hin
  have kept : (m.keeps s.store).length ≤ s.chunkCap := (keeps_length_le m s.store).trans withinCap
  rw [runInputs_encodeCommands idle hin]
  rcases (State.begun_inPass idle kept).outcome pixels rfl with ⟨t, -, -, completes⟩ | ⟨t, j, ht, faults⟩
  · exact absurd (fits_of_passCompletes completes) notFits
  · refine ⟨t, j + 1, ht, faults.inErr, faults.cause.imp And.left And.left, Nat.succ_le_succ faults.index,
      faults.command, ?_, ?_, ?_⟩
    · intro overflow
      rcases faults.cause with ⟨-, hj, r, hr, long⟩ | ⟨full, -⟩
      · refine ⟨hj, r, ?_, long⟩
        rw [State.begun_passRuns] at hr
        exact (List.mem_append.mp hr).resolve_left fun stored => (Memory.run_lt_of_mem_runs stored).ne long
      · exact absurd (overflow.symm.trans full) (by decide)
    · intro full
      rcases faults.cause with ⟨overflow, -⟩ | ⟨-, runs⟩
      · exact absurd (full.symm.trans overflow) (by decide)
      · rwa [State.begun_passRuns, List.length_append, Memory.runs_length] at runs
    · rw [faults.codes]
      simp [State.begun_responses, List.replicate_succ]

end Sys2Proof.Machine
end

section
/-! PROOFS. The decoder's commands: what each answers (DecBeginFollowsItsRule, DecPixelFollowsItsRule), and the store
while an engine is open (OpenEngineOwnsTheStore). -/

namespace Sys2Proof.Machine

variable {s t : State}

/-! ### DEC_BEGIN (rule R121) -/

theorem exec_decBegin_busy (noErr : s.err = false) (inPass : s.encActive = true) :
    exec .decBegin s = .next (s.faulted 0x03 (encode .decBegin)) :=
  (filtered_of_no_error _ noErr).trans (if_pos inPass)

theorem exec_decBegin_sequence (noErr : s.err = false) (noPass : s.encActive = false) (inDecode : s.decActive = true) :
    exec .decBegin s = .next (s.faulted 0x02 (encode .decBegin)) :=
  (filtered_of_no_error _ noErr).trans ((if_neg (by simp [noPass])).trans (if_pos inDecode))

theorem exec_decBegin_begins (noErr : s.err = false) (noPass : s.encActive = false) (noDecode : s.decActive = false) :
    exec .decBegin s = .next (s.beginDecode.answers 0 (BitVec.ofNat 64 (Memory.pixels s.store))) :=
  (filtered_of_no_error _ noErr).trans ((if_neg (by simp [noPass])).trans (if_neg (by simp [noDecode])))

/-- A number that fits the width is 0 exactly when its word is. -/
theorem ofNat_eq_zero_iff {w n : Nat} (fits : n < 2 ^ w) : BitVec.ofNat w n = 0 ↔ n = 0 := by
  rw [← BitVec.toNat_inj, BitVec.toNat_ofNat, Nat.mod_eq_of_lt fits]
  simp

/-- A decode of no pixels is done when it begins. -/
theorem beginDecode_of_empty (empty : Memory.pixels s.store = 0) : s.beginDecode =
    { s with decTotal := 0, decEmitted := 0, decChunk := 0, decOffset := 0, decActive := false, decDone := true } := by
  simp [State.beginDecode, empty]

theorem beginDecode_of_pixels (pixels : Memory.pixels s.store ≠ 0) (fits : Memory.pixels s.store < 2 ^ 64) :
    s.beginDecode =
      { s with decTotal := BitVec.ofNat 64 (Memory.pixels s.store), decEmitted := 0, decChunk := 0, decOffset := 0,
               decActive := true, decDone := false } := by
  simp only [State.beginDecode, ne_eq, ofNat_eq_zero_iff fits, pixels, not_false_eq_true, decide_true, decide_false]

/-- Settles O14: an open pass, an open decode, a decode of nothing, and one with pixels to come. -/
theorem decBeginFollowsItsRule : Obligations.DecBeginFollowsItsRule := by
  refine ⟨rfl, fun s noErr => ⟨exec_decBegin_busy noErr, exec_decBegin_sequence noErr, ?_⟩⟩
  rintro noPass noDecode total (rfl : total = Memory.pixels s.store) fits
  rw [exec_decBegin_begins noErr noPass noDecode]
  constructor
  · intro empty
    rw [beginDecode_of_empty empty, empty]
    rfl
  · intro pixels
    rw [beginDecode_of_pixels pixels fits]

/-! ### DEC_PIXEL (rule R122) -/

theorem exec_decPixel_sequence (noErr : s.err = false) (noDecode : s.decActive = false) :
    exec .decPixel s = .next (s.faulted 0x02 (encode .decPixel)) :=
  (filtered_of_no_error _ noErr).trans (if_pos noDecode)

theorem exec_decPixel_emits (noErr : s.err = false) (inDecode : s.decActive = true) {c : Chunk}
    (entry : Memory.readEntry s.store s.decChunk.toNat = some c) :
    exec .decPixel s = .next ((s.advanceCursor c.run).answers 0 (c.value.setWidth 64)) := by
  refine (filtered_of_no_error _ noErr).trans ((if_neg (by simp [inDecode])).trans ?_)
  rw [entry]
  rfl

/-- In an open decode every pixel but the last leaves `DEC_ACTIVE` at 1. -/
theorem advanceCursor_eq (inDecode : s.decActive = true) (len : RunLength) : s.advanceCursor len =
    { s with
      decEmitted := s.decEmitted + 1
      decChunk := if s.decOffset.toNat + 1 = len.toNat then s.decChunk + 1 else s.decChunk
      decOffset := if s.decOffset.toNat + 1 = len.toNat then 0 else s.decOffset + 1
      decActive := if s.decEmitted + 1 = s.decTotal then false else true
      decDone := if s.decEmitted + 1 = s.decTotal then true else s.decDone } := by
  cases s
  cases inDecode
  rfl

/-- Settles O15: no decode, and the pixel under the cursor. -/
theorem decPixelFollowsItsRule : Obligations.DecPixelFollowsItsRule :=
  ⟨rfl, fun _ noErr => ⟨exec_decPixel_sequence noErr, fun c inDecode entry => by
    rw [exec_decPixel_emits noErr inDecode entry, advanceCursor_eq inDecode]⟩⟩

/-! ### The store while an engine is open (rules R127, R196) -/

theorem exec_chunkLoad_busy (noErr : s.err = false) (engine : s.encActive = true ∨ s.decActive = true) (v : Byte)
    (n : RunLength) : exec (.chunkLoad v n) s = .next (s.faulted 0x03 (encode (.chunkLoad v n))) :=
  (filtered_of_no_error _ noErr).trans (if_pos (Bool.or_eq_true_iff.mpr engine))

theorem exec_chunkClear_busy (noErr : s.err = false) (engine : s.encActive = true ∨ s.decActive = true) :
    exec .chunkClear s = .next (s.faulted 0x03 (encode .chunkClear)) :=
  (filtered_of_no_error _ noErr).trans (if_pos (Bool.or_eq_true_iff.mpr engine))

/-- In the block of an open decode, no command but the reset writes the store. -/
theorem exec_store_of_inDecode (inDecode : s.decActive = true) (noPass : s.encActive = false) {i : Instr}
    (h : exec i s = .next t) (notReset : i ≠ .softReset) : t.store = s.store := by
  cases exec_effect h with
  | passBegun _ _ _ noDecode => simp [inDecode] at noDecode
  | runClosed _ _ inPass => simp [noPass] at inPass
  | passFlushed _ inPass => simp [noPass] at inPass
  | chunkLoaded _ _ _ _ noDecode => simp [inDecode] at noDecode
  | storeCleared _ _ noDecode => simp [inDecode] at noDecode
  | blockReset => exact absurd rfl notReset
  | _ => rfl

/-- In the block of an open pass, no command but the pass's own and the reset writes the store. -/
theorem exec_store_of_inPass (inPass : s.encActive = true) {i : Instr} (h : exec i s = .next t)
    (notReset : i ≠ .softReset) (notPixel : ∀ v, i ≠ .encPixel v) (notEnd : i ≠ .encEnd) : t.store = s.store := by
  cases exec_effect h with
  | passBegun _ _ noPass => simp [inPass] at noPass
  | runClosed v => exact absurd rfl (notPixel v)
  | passFlushed => exact absurd rfl notEnd
  | chunkLoaded _ _ _ noPass => simp [inPass] at noPass
  | storeCleared _ noPass => simp [inPass] at noPass
  | blockReset => exact absurd rfl notReset
  | _ => rfl

/-- Settles O33: the checks for the other engine, and the effects that write the store. -/
theorem openEngineOwnsTheStore : Obligations.OpenEngineOwnsTheStore :=
  fun _ noErr => ⟨
    fun inDecode => ⟨exec_encBegin_busy noErr inDecode, fun noPass _ _ => exec_store_of_inDecode inDecode noPass⟩,
    fun inPass => ⟨exec_decBegin_busy noErr inPass, fun _ _ => exec_store_of_inPass inPass⟩,
    fun engine => ⟨exec_chunkLoad_busy noErr engine, exec_chunkClear_busy noErr engine⟩⟩

end Sys2Proof.Machine
end

section
/-! PROOFS. Runs of commands, one after the other: what a run keeps, and a run of two lists of commands as two runs. -/

namespace Sys2Proof.Machine

variable {s t : State}

theorem runInputs_keeps_inv (hs : s.Inv) (h : runInputs s = .next t) : t.Inv :=
  run_keeps (M := Sys2Proof.core) stepKeepsTheInvariants _ hs h

theorem State.Idle.of_sameBlock (idle : s.Idle) (same : s.SameBlock t) : t.Idle := by
  rw [← (same : { s with inputs := t.inputs, responses := t.responses, freeCount := t.freeCount } = t)]
  exact idle

/-- A run of two lists of commands is a run of the first, then one of the second. -/
theorem runInputs_append (first second : List Instr) : ∀ {s s' t : State}, s.SameBlock s' →
    s'.responses = s.responses → s.inputs = issue first → s'.inputs = issue (first ++ second) →
    runInputs s = .next t → ∃ t', runInputs s' = runInputs t' ∧ t.SameBlock t' ∧ t'.inputs = issue second ∧
      t'.responses = t.responses := by
  induction first with
  | nil =>
    intro s s' t same responses hin hin' h
    obtain rfl := Host.Outcome.next.inj ((runInputs_nil hin).symm.trans h)
    exact ⟨s', rfl, same, hin', responses⟩
  | cons i first ih =>
    intro s s' t same responses hin hin' h
    obtain ⟨u, hu, hrun⟩ := runInputs_issue_cons hin h
    obtain ⟨d, u', hu', same', received, received'⟩ := exec_of_sameBlock
      (s' := { s' with inputs := issue (first ++ second) }) (by rw [← same]; rfl) hu
    rw [runInputs_of_exec hin' hu']
    exact ih same' (by rw [received, received', responses]) (exec_inputs hu) (exec_inputs hu') hrun

end Sys2Proof.Machine
end

section
/-! PROOFS. A decode against its reference (rules R123, R124): it answers the stored pixels in order
(DecodeReturnsTheStoredPixels), and after a pass those of the pass (PassThenDecodeReturnsThePixels). -/

namespace Sys2Proof.Machine

variable {s t : State} {v : Byte} {rest : List Byte}

/-! ### The pixels of a sequence (rule R123) -/

theorem decodeRuns_append (a b : List Run) : decodeRuns (a ++ b) = decodeRuns a ++ decodeRuns b :=
  List.flatMap_append

theorem totalLength_runs (m : Memory) : totalLength (Memory.runs m) = Memory.pixels m :=
  congrArg List.sum (List.map_map ..)

theorem decodeRuns_runs_length (m : Memory) : (decodeRuns (Memory.runs m)).length = Memory.pixels m :=
  (decodeRuns_length _).trans (totalLength_runs m)

/-! ### The cursor and the pixel under it -/

/-- A cursor in the store has a pixel still to emit. -/
theorem Memory.CursorAt.lt_pixels {m : Memory} {k o e : Nat} (h : Memory.CursorAt m k o e) : e < Memory.pixels m := by
  obtain ⟨⟨c, hc, hlt⟩, rfl⟩ := h
  have upTo := Memory.pixels_take_succ hc
  have whole : Memory.pixels (m.take (k + 1)) + Memory.pixels (m.drop (k + 1)) = Memory.pixels m := by
    rw [← Memory.pixels_append, List.take_append_drop]
  omega

/-- Pixel number `e` of the sequence is the value of the entry the cursor is in. -/
theorem Memory.CursorAt.pixel {m : Memory} {k o e : Nat} (h : Memory.CursorAt m k o e) {c : Chunk}
    (hc : Memory.readEntry m k = some c) : (decodeRuns (Memory.runs m))[e]? = some c.value := by
  obtain ⟨⟨d, hd, hlt⟩, rfl⟩ := h
  obtain rfl : d = c := Option.some.inj (hd.symm.trans hc)
  obtain ⟨hk, rfl⟩ := List.getElem?_eq_some_iff.mp hc
  have parts : decodeRuns (Memory.runs m) = decodeRuns (Memory.runs (m.take k)) ++
      (List.replicate m[k].run.toNat m[k].value ++ decodeRuns (Memory.runs (m.drop (k + 1)))) := by
    conv_lhs => rw [← List.take_append_drop k m, List.drop_eq_getElem_cons hk]
    rw [Memory.runs_append, decodeRuns_append]
    rfl
  rw [parts, ← decodeRuns_runs_length, List.getElem?_append_right (Nat.le_add_right ..), Nat.add_sub_cancel_left,
    List.getElem?_append_left (by simpa using hlt), List.getElem?_replicate, if_pos hlt]

theorem Memory.CursorAt.drop_pixels {m : Memory} {k o e : Nat} (h : Memory.CursorAt m k o e) {c : Chunk}
    (hc : Memory.readEntry m k = some c) :
    (decodeRuns (Memory.runs m)).drop e = c.value :: (decodeRuns (Memory.runs m)).drop (e + 1) := by
  obtain ⟨he, hvalue⟩ := List.getElem?_eq_some_iff.mp (h.pixel hc)
  rw [List.drop_eq_getElem_cons he, hvalue]

/-- The last pixel of all is in the last slot of the last entry. -/
theorem Memory.CursorAt.last {m : Memory} {k o e : Nat} (h : Memory.CursorAt m k o e) {c : Chunk}
    (hc : Memory.readEntry m k = some c) (last : e + 1 = Memory.pixels m)
    (positive : ∀ i d, Memory.readEntry m i = some d → 1 ≤ d.run.toNat) :
    o + 1 = c.run.toNat ∧ k + 1 = m.length := by
  have lastSlot : o + 1 = c.run.toNat := by
    by_contra inside
    exact (h.nextSlot hc inside).lt_pixels.ne last
  have hk : k < m.length := (Memory.readEntry_isSome m k).mp (by rw [hc]; rfl)
  refine ⟨lastSlot, Nat.le_antisymm hk (Nat.le_of_not_lt fun more => ?_)⟩
  have next : Memory.CursorAt m (k + 1) 0 (e + 1) :=
    ⟨⟨m[k + 1], List.getElem?_eq_getElem more, positive _ _ (List.getElem?_eq_getElem more)⟩, by
      rw [h.2, Memory.pixels_take_succ hc]
      omega⟩
  exact next.lt_pixels.ne last

/-- A store of positive runs without pixels is empty. -/
theorem Memory.eq_nil_of_pixels {m : Memory} (empty : Memory.pixels m = 0)
    (positive : ∀ i d, Memory.readEntry m i = some d → 1 ≤ d.run.toNat) : m = [] := by
  cases m with
  | nil => rfl
  | cons c m =>
    have first := positive 0 c rfl
    rw [Memory.pixels_cons] at empty
    omega

/-! ### A decode under way -/

/-- The decoder's registers when all pixels have been emitted. -/
structure State.DecodeDone (s : State) : Prop where
  noDecode : s.decActive = false
  done : s.decDone = true
  emitted : s.decEmitted = s.decTotal
  chunk : s.decChunk = BitVec.ofNat 64 s.chunkCount
  offset : s.decOffset = 0

/-- A decode has been begun, nothing has gone wrong, and the pixels `rest` are still to be emitted. -/
structure State.Decodes (s : State) (rest : List Byte) : Prop where
  inv : s.Inv
  noErr : s.err = false
  pixels : (decodeRuns (Memory.runs s.store)).drop s.decEmitted.toNat = rest
  inDecode : rest ≠ [] → s.decActive = true
  decodeDone : rest = [] → s.DecodeDone

theorem State.Decodes.of_sameBlock (hs : s.Decodes rest) (same : s.SameBlock t) : t.Decodes rest := by
  have inv := hs.inv.of_sameBlock same
  rw [← (same : { s with inputs := t.inputs, responses := t.responses, freeCount := t.freeCount } = t)] at inv ⊢
  exact { hs with
    inv := inv
    decodeDone := fun noMore => { hs.decodeDone noMore with } }

/-- What DEC_BEGIN leaves of an idle block. -/
theorem State.Inv.beginDecode_decodes (hs : s.Inv) (idle : s.Idle) :
    s.beginDecode.Decodes (decodeRuns (Memory.runs s.store)) := by
  obtain ⟨noErr, noPass, -⟩ := idle
  have noPixels : decodeRuns (Memory.runs s.store) = [] ↔ Memory.pixels s.store = 0 := by
    rw [← List.length_eq_zero_iff, decodeRuns_runs_length]
  refine ⟨hs.beginDecode noPass, noErr, List.drop_zero, fun more => ?_, fun noMore => ?_⟩
  · rw [beginDecode_of_pixels (mt noPixels.mpr more) hs.pixels_store_lt]
  · have empty := noPixels.mp noMore
    have store := Memory.eq_nil_of_pixels empty hs.positiveRuns
    rw [beginDecode_of_empty empty]
    exact ⟨rfl, rfl, rfl, by rw [State.chunkCount, store]; rfl, rfl⟩

/-- DEC_PIXEL in a decode with a pixel to come: it is answered, and the others are to come. -/
theorem State.Decodes.decPixel (hs : s.Decodes (v :: rest)) :
    ∃ t, exec .decPixel s = .next t ∧ t.Decodes rest ∧ t.store = s.store ∧ t.decTotal = s.decTotal ∧
      t.responses = s.responses ++ [⟨0, v.setWidth 64⟩] := by
  have inDecode := hs.inDecode (List.cons_ne_nil _ _)
  have cursor := hs.inv.cursorAt inDecode
  obtain ⟨c, hc, -⟩ := hs.inv.cursorInStore inDecode
  have hexec := exec_decPixel_emits hs.noErr inDecode hc
  have emitted : (s.decEmitted + 1).toNat = s.decEmitted.toNat + 1 :=
    execDecPixel_decEmitted_toNat hs.inv hs.noErr (by exact hs.noErr) hexec
  obtain ⟨hv, hrest⟩ := List.cons.inj ((cursor.drop_pixels hc).symm.trans hs.pixels)
  have last : rest = [] ↔ s.decEmitted + 1 = s.decTotal := by
    rw [← hrest, List.drop_eq_nil_iff, decodeRuns_runs_length, ← BitVec.toNat_inj, hs.inv.decodeTotal inDecode,
      emitted]
    have := cursor.lt_pixels
    omega
  refine ⟨_, hexec, ⟨exec_keeps_inv hs.inv hexec, hs.noErr, ?_, fun more => ?_, fun noMore => ?_⟩, rfl, rfl,
    hv ▸ rfl⟩
  · rw [State.answers_decEmitted, State.advanceCursor_decEmitted, emitted]
    exact hrest
  · exact (if_neg (mt last.mpr more)).trans inDecode
  · have total := last.mp noMore
    have hlast : s.decEmitted.toNat + 1 = Memory.pixels s.store := by
      rw [← hs.inv.decodeTotal inDecode, ← total, emitted]
    obtain ⟨lastSlot, lastChunk⟩ := cursor.last hc hlast hs.inv.positiveRuns
    refine ⟨if_pos total, if_pos total, total, (if_pos lastSlot).trans ?_, if_pos lastSlot⟩
    rw [State.chunkCount, State.answers_store, State.advanceCursor_store, ← lastChunk, BitVec.ofNat_add,
      BitVec.ofNat_toNat, BitVec.setWidth_eq]
    rfl

/-- A decode, pixel by pixel. -/
theorem State.Decodes.run (rest : List Byte) : ∀ {s : State}, s.Decodes rest →
    s.inputs = issue (List.replicate rest.length .decPixel) →
    ∃ t, runInputs s = .next t ∧ t.Decodes [] ∧ t.store = s.store ∧ t.decTotal = s.decTotal ∧
      t.responses = s.responses ++ rest.map (fun v => ⟨0, v.setWidth 64⟩) := by
  induction rest with
  | nil => exact fun {s} hs hin => ⟨s, runInputs_nil hin, hs, rfl, rfl, (List.append_nil _).symm⟩
  | cons v rest ih =>
    intro s hs hin
    obtain ⟨u, hu, decodes, store, total, responses⟩ := State.Decodes.decPixel
      (s := { s with inputs := issue (List.replicate rest.length .decPixel) }) (hs.of_sameBlock rfl)
    obtain ⟨t, ht, done, store', total', responses'⟩ := ih decodes (exec_inputs hu)
    refine ⟨t, (runInputs_of_exec hin hu).trans ht, done, store'.trans store, total'.trans total, ?_⟩
    rw [responses', responses, List.append_assoc]
    rfl

/-! ### A whole decode (rule R124) -/

theorem runInputs_decodeCommands (hs : s.Inv) (idle : s.Idle)
    (hin : s.inputs = issue (decodeCommands (totalLength (Memory.runs s.store)))) :
    ∃ t, runInputs s = .next t ∧ t.Decodes [] ∧ t.store = s.store ∧
      t.decTotal = BitVec.ofNat 64 (totalLength (Memory.runs s.store)) ∧
      t.responses = s.responses ++ ⟨0, BitVec.ofNat 64 (totalLength (Memory.runs s.store))⟩ ::
        (decodeRuns (Memory.runs s.store)).map (fun v => ⟨0, v.setWidth 64⟩) := by
  have begun : s.beginDecode.Decodes (decodeRuns (Memory.runs s.store)) := hs.beginDecode_decodes idle
  obtain ⟨noErr, noPass, noDecode⟩ := idle
  rw [← decodeRuns_length] at hin ⊢
  have hexec := exec_decBegin_begins
    (s := { s with inputs := issue (List.replicate (decodeRuns (Memory.runs s.store)).length .decPixel) })
    noErr noPass noDecode
  obtain ⟨t, ht, decodes, store, total, responses⟩ := State.Decodes.run _ (by exact begun.of_sameBlock rfl)
    (exec_inputs hexec)
  rw [decodeRuns_runs_length]
  refine ⟨t, (runInputs_of_exec hin hexec).trans ht, decodes, store, total, ?_⟩
  rw [responses, State.answers_responses, List.append_assoc]
  rfl

/-- Settles O50: the run of the decode leaves nothing to emit. -/
theorem decodeReturnsTheStoredPixels : Obligations.DecodeReturnsTheStoredPixels := by
  intro s hs idle hin
  obtain ⟨t, ht, decodes, store, total, responses⟩ := runInputs_decodeCommands hs idle hin
  obtain ⟨noDecode, done, emitted, chunk, offset⟩ := decodes.decodeDone rfl
  refine ⟨t, ht, responses, decodes.noErr, noDecode, done, emitted.trans total, ?_, offset, store,
    exec_decPixel_sequence decodes.noErr noDecode⟩
  rw [chunk, State.chunkCount, store, State.chunkCount]

/-! ### A pass, then a decode (rule R128) -/

/-- Settles O51: the pass leaves an idle block that stores the encoding, whose decode is the pixels. -/
theorem passThenDecodeReturnsThePixels : Obligations.PassThenDecodeReturnsThePixels := by
  intro m pixels s hs idle fits hin
  obtain ⟨t, ht, idlet, -, -, runs, -, -, marks, length, responses⟩ :=
    encodePassStoresTheEncoding m pixels { s with inputs := issue (encodeCommands m pixels) } idle fits rfl
  obtain ⟨t', ht', same, hin', responses'⟩ := runInputs_append _ _ (by rfl) (by rfl) (by rfl) hin ht
  have inv' : t'.Inv := (runInputs_keeps_inv (by exact hs.of_sameBlock rfl) ht).of_sameBlock same
  have store' : t'.store = t.store := (congrArg State.store same).symm
  have decoded : decodeRuns (Memory.runs t'.store) = decodeRuns (Memory.runs (m.keeps s.store)) ++ pixels := by
    rw [store', runs, decodeRuns_append, decodeRuns_encodePixels]
  have total : totalLength (Memory.runs t'.store) = totalLength (Memory.runs (m.keeps s.store)) + pixels.length := by
    rw [← decodeRuns_length, decoded, List.length_append, decodeRuns_length]
  rw [← total] at hin' ⊢
  obtain ⟨u, hu, -, -, -, answered⟩ := runInputs_decodeCommands inv' (idlet.of_sameBlock same) hin'
  rw [decoded, responses', responses] at answered
  refine ⟨u, _, ht'.trans hu, ?_, List.getLast?_concat, answered.trans (List.append_cons ..), ?_⟩
  · simp only [List.length_append, List.length_map, List.length_singleton, length]
    omega
  · rw [answered, List.append_assoc, List.append_assoc, List.drop_left]
    simp only [List.forall_mem_append, List.forall_mem_cons, List.forall_mem_map]
    simp

end Sys2Proof.Machine
end

section
/-! PROOFS. The store's and the control commands: what each answers (ChunkLoadFollowsItsRule, ChunkReadFollowsItsRule,
ChunkClearFollowsItsRule, NopOnlyAnswers, SoftResetFollowsItsRule), and a sequence loaded (LoadedSequenceIsStored). -/

namespace Sys2Proof.Machine

variable {s : State}

/-! ### CHUNK_LOAD (rule R140) -/

/-- Past the filter and the check for an open engine. -/
theorem exec_chunkLoad_inactive (noErr : s.err = false) (noPass : s.encActive = false) (noDecode : s.decActive = false)
    (v : Byte) (n : RunLength) : exec (.chunkLoad v n) s =
      if n = 0 then raise .zeroRun (encode (.chunkLoad v n)) s
      else if s.chunkCount = s.chunkCap then raise .storeFull (encode (.chunkLoad v n)) s
      else respond (BitVec.ofNat 64 (s.emitChunk v n).chunkCount) (s.emitChunk v n) :=
  (filtered_of_no_error _ noErr).trans (if_neg (by simp [noPass, noDecode]))

theorem exec_chunkLoad_zeroRun (noErr : s.err = false) (noPass : s.encActive = false) (noDecode : s.decActive = false)
    (v : Byte) {n : RunLength} (zero : n = 0) :
    exec (.chunkLoad v n) s = .next (s.faulted 0x06 (encode (.chunkLoad v n))) :=
  (exec_chunkLoad_inactive noErr noPass noDecode v n).trans (if_pos zero)

theorem exec_chunkLoad_storeFull (noErr : s.err = false) (noPass : s.encActive = false) (noDecode : s.decActive = false)
    (v : Byte) {n : RunLength} (positive : n ≠ 0) (full : s.chunkCount = s.chunkCap) :
    exec (.chunkLoad v n) s = .next (s.faulted 0x05 (encode (.chunkLoad v n))) :=
  (exec_chunkLoad_inactive noErr noPass noDecode v n).trans ((if_neg positive).trans (if_pos full))

theorem exec_chunkLoad_appends (noErr : s.err = false) (noPass : s.encActive = false) (noDecode : s.decActive = false)
    (v : Byte) {n : RunLength} (positive : n ≠ 0) (room : s.chunkCount ≠ s.chunkCap) :
    exec (.chunkLoad v n) s = .next ((s.emitChunk v n).answers 0 (BitVec.ofNat 64 (s.chunkCount + 1))) := by
  have count : (s.emitChunk v n).chunkCount = s.chunkCount + 1 := List.length_append
  rw [exec_chunkLoad_inactive noErr noPass noDecode, if_neg positive, if_neg room, count, respond_eq]

/-- Settles O17: an open engine, a zero run, a full store, and the chunk appended. -/
theorem chunkLoadFollowsItsRule : Obligations.ChunkLoadFollowsItsRule :=
  ⟨fun v n => commandWord_toNat 0x20 v n, fun v _ _ noErr => ⟨fun engine => exec_chunkLoad_busy noErr engine v _,
    fun noPass noDecode => exec_chunkLoad_zeroRun noErr noPass noDecode v,
    fun noPass noDecode => exec_chunkLoad_storeFull noErr noPass noDecode v,
    fun noPass noDecode => exec_chunkLoad_appends noErr noPass noDecode v⟩⟩

/-! ### CHUNK_READ (rules R78, R141) -/

theorem exec_chunkRead_indexRange (noErr : s.err = false) {i : RunLength} (beyond : s.chunkCount ≤ i.toNat) :
    exec (.chunkRead i) s = .next (s.faulted 0x07 (encode (.chunkRead i))) := by
  refine (filtered_of_no_error _ noErr).trans ?_
  rw [(Memory.readEntry_eq_none _ _).mpr beyond]
  rfl

/-- The chunk word as a number (rule R78). -/
theorem chunkWord_eq_ofNat (c : Chunk) : chunkWord c = BitVec.ofNat 64 (c.run.toNat * 2 ^ 8 + c.value.toNat) := by
  apply BitVec.eq_of_toNat_eq
  rw [chunkWord, BitVec.toNat_setWidth, BitVec.toNat_append, ← Nat.shiftLeft_add_eq_or_of_lt c.value.isLt,
    Nat.shiftLeft_eq, BitVec.toNat_ofNat]

/-- Settles O18: an index out of range, and the entry read. -/
theorem chunkReadFollowsItsRule : Obligations.ChunkReadFollowsItsRule :=
  ⟨fun i => (commandWord_toNat 0x21 0 i).trans (by simp), fun i _ noErr => ⟨exec_chunkRead_indexRange noErr,
    fun c entry => chunkWord_eq_ofNat c ▸ exec_chunkRead_of_entry noErr entry⟩⟩

/-! ### CHUNK_CLEAR (rule R142) -/

theorem exec_chunkClear_empties (noErr : s.err = false) (noPass : s.encActive = false)
    (noDecode : s.decActive = false) : exec .chunkClear s = .next (s.clearStore.answers 0 0) :=
  (filtered_of_no_error _ noErr).trans (if_neg (by simp [noPass, noDecode]))

/-- Settles O19: an open engine, and the store emptied. -/
theorem chunkClearFollowsItsRule : Obligations.ChunkClearFollowsItsRule :=
  ⟨rfl, fun _ noErr => ⟨exec_chunkClear_busy noErr, exec_chunkClear_empties noErr⟩⟩

/-! ### NOP and SOFT_RESET (rules R144, R145, R190) -/

theorem exec_nop (s : State) : exec .nop s = .next (s.answers 0 0) := respond_eq 0 s

theorem exec_softReset (s : State) : exec .softReset s = .next (s.applyReset.answers 0 0) := respond_eq 0 s.applyReset

/-- Settles O21: NOP is its response, with no filter in front. -/
theorem nopOnlyAnswers : Obligations.NopOnlyAnswers := ⟨rfl, exec_nop⟩

/-- Settles O22: SOFT_RESET is the reset operation and its response, with no filter in front. -/
theorem softResetFollowsItsRule : Obligations.SoftResetFollowsItsRule := ⟨rfl, exec_softReset⟩

/-! ### Loading a sequence (rules R81, R146) -/

/-- LOAD_SEQ after its CHUNK_CLEAR. -/
def chunkLoads (seq : Memory) : List Instr := seq.map fun c => .chunkLoad c.value c.run

theorem loadCommands_eq (seq : Memory) : loadCommands seq = .chunkClear :: chunkLoads seq := rfl

/-- The responses to `n` loads that succeed, the first at `count` entries: the new counts. -/
def loadResponses (count n : Nat) : List Response :=
  (List.range n).map (fun k => ⟨0, BitVec.ofNat 64 (count + (k + 1))⟩)

theorem loadResponses_succ (count n : Nat) :
    loadResponses count (n + 1) = ⟨0, BitVec.ofNat 64 (count + 1)⟩ :: loadResponses (count + 1) n := by
  simp [loadResponses, List.range_succ_eq_map, Nat.add_comm, Nat.add_left_comm]

/-- Loads of positive runs that fit are all answered, and append their chunks in order. -/
theorem runInputs_chunkLoads {seq : Memory} (idle : s.Idle) (positive : ∀ c ∈ seq, c.run ≠ 0)
    (fits : s.chunkCount + seq.length ≤ s.chunkCap) (hin : s.inputs = issue (chunkLoads seq)) :
    runInputs s = .next
      { s with store := s.store ++ seq, inputs := [],
               responses := s.responses ++ loadResponses s.chunkCount seq.length } := by
  induction seq generalizing s with
  | nil =>
    rw [runInputs_nil hin, ← show s.inputs = [] from hin]
    simp [loadResponses]
  | cons c seq ih =>
    obtain ⟨hc, hseq⟩ := List.forall_mem_cons.mp positive
    rw [List.length_cons] at fits
    have ⟨noErr, noPass, noDecode⟩ := idle
    have hexec := exec_chunkLoad_appends (s := { s with inputs := issue (chunkLoads seq) })
      noErr noPass noDecode c.value hc (show s.chunkCount ≠ s.chunkCap by omega)
    refine (runInputs_of_exec hin hexec).trans ((ih (by exact idle) hseq ?_ (by rfl)).trans ?_)
    · simpa [State.chunkCount, Nat.add_assoc, Nat.add_comm 1] using fits
    · simp [State.chunkCount, loadResponses_succ]

/-- Settles O49: the clear empties the store, and the loads fill it from there. -/
theorem loadedSequenceIsStored : Obligations.LoadedSequenceIsStored := by
  intro seq s idle positive fits hin
  rw [loadCommands_eq] at hin
  have ⟨noErr, noPass, noDecode⟩ := idle
  have hexec := exec_chunkClear_empties (s := { s with inputs := issue (chunkLoads seq) }) noErr noPass noDecode
  refine ⟨_, (runInputs_of_exec hin hexec).trans (runInputs_chunkLoads (by exact idle) positive
    (by exact (Nat.zero_add _).trans_le fits) (by rfl)), idle, rfl, ?_⟩
  simp [loadResponses, State.chunkCount]

end Sys2Proof.Machine
end

section
/-! PROOFS. Faults and the error state: the filter (ErrorStateFilterBlocks), fault entry and its causes (FaultsArePrecise,
CausesComeFromTheirCommands), the way out (OnlyResetLeavesTheErrorState), and runs of command words
(ErrorStateKeepsTheFirstFault, UsableExactlyWhenEveryResponseIsOk). -/

namespace Sys2Proof.Machine

variable {s t : State} {i : Instr} {cmd : Word} {words : List Word}

/-! ### A command outside the error state (rules R160, R161) -/

/-- `t` is outside the error state and holds the responses of `s` and one more, which is `OK`. -/
def AnswersOk (s t : State) : Prop := t.err = false ∧ ∃ data, t.responses = s.responses ++ [⟨0, data⟩]

/-- Every effect but a fault answers `OK`, and a fault has a cause listed for its command. -/
theorem Effect.faulted_or_ok (noErr : s.err = false) (h : Effect s i t) :
    (∃ c : Cause, (i.wf = true → c.raisedBy i = true) ∧ t = s.faulted c.value (encode i)) ∨ AnswersOk s t := by
  cases h with
  | blocked _ inErr => exact absurd inErr (ne_true_of_eq_false noErr)
  | faulted _ c _ raised => exact .inl ⟨c, raised, rfl⟩
  | blockReset => exact .inr ⟨rfl, _, rfl⟩
  | _ => exact .inr ⟨noErr, _, rfl⟩

/-- A word that is carried out outside the error state faults, or answers `OK`. -/
theorem carryOut_faulted_or_ok (noErr : s.err = false) (h : carryOut cmd s = .next t) :
    (∃ c : Cause, t = s.faulted c.value cmd) ∨ AnswersOk s t := by
  rcases carryOut_next h with ⟨i, hi, effect⟩ | ⟨inErr, -⟩ | ⟨-, rfl⟩
  · rw [← (encode_of_decode hi).2]
    exact (effect.faulted_or_ok noErr).imp_left fun ⟨c, _, ht⟩ => ⟨c, ht⟩
  · exact absurd inErr (ne_true_of_eq_false noErr)
  · exact .inl ⟨.illegalCmd, rfl⟩

/-- Settles O25: a word that ends in the error state did not answer `OK`, so it took the fault. -/
theorem faultsArePrecise : Obligations.FaultsArePrecise := by
  intro cmd s t noErr h entered
  refine (carryOut_faulted_or_ok noErr h).resolve_right fun ⟨usable, _⟩ => ?_
  exact absurd entered (ne_true_of_eq_false usable)

/-- Settles O26: the fault that was taken carries its cause. -/
theorem causesComeFromTheirCommands : Obligations.CausesComeFromTheirCommands := by
  intro i s t hwf noErr h entered
  rcases (exec_effect h).faulted_or_ok noErr with ⟨c, raised, rfl⟩ | ⟨usable, -⟩
  · exact ⟨c, rfl, raised hwf⟩
  · exact absurd entered (ne_true_of_eq_false usable)

/-! ### A word in the error state (rules R162, R163) -/

/-- Settles O24: a word that is no command meets the filter before it is refused. -/
theorem errorStateFilterBlocks : Obligations.ErrorStateFilterBlocks := by
  refine fun cmd s inErr => ⟨fun i hi _ => carryOut_of_decode hi, fun blocked => ?_⟩
  cases hdec : decode cmd with
  | ok i => exact (carryOut_of_decode hdec).trans (exec_of_error inErr (blocked i hdec))
  | error _ => exact (carryOut_of_illegal (by simp [hdec])).trans (filtered_of_error _ inErr)

/-- In the error state only SOFT_RESET does more than answer. -/
theorem Effect.answers_of_error (inErr : s.err = true) (notReset : i ≠ .softReset) (h : Effect s i t) :
    ∃ code data, t = s.answers code data := by
  cases h with
  | blocked => exact ⟨_, _, rfl⟩
  | readDone => exact ⟨_, _, rfl⟩
  | blockReset => exact absurd rfl notReset
  | _ => exact absurd inErr (ne_true_of_eq_false ‹s.err = false›)

theorem carryOut_of_error (inErr : s.err = true) (notReset : decode cmd ≠ .ok .softReset)
    (h : carryOut cmd s = .next t) : ∃ code data, t = s.answers code data := by
  rcases carryOut_next h with ⟨i, hi, effect⟩ | ⟨-, rfl⟩ | ⟨noErr, -⟩
  · exact effect.answers_of_error inErr fun isReset => notReset (isReset ▸ hi)
  · exact ⟨_, _, rfl⟩
  · exact absurd inErr (ne_true_of_eq_false noErr)

/-- A word that leaves the error state is SOFT_RESET's. -/
theorem decode_of_leaves_error (inErr : s.err = true) (h : carryOut cmd s = .next t) (left : t.err = false) :
    decode cmd = .ok .softReset := by
  by_contra notReset
  obtain ⟨_, _, rfl⟩ := carryOut_of_error inErr notReset h
  exact absurd inErr (ne_true_of_eq_false left)

/-- Settles O28: of the inputs, a word leaves the error state only as SOFT_RESET, and each of the three resets leaves the
reset state's store and flags. -/
theorem onlyResetLeavesTheErrorState : Obligations.OnlyResetLeavesTheErrorState := by
  intro s t inErr h left
  cases hin : s.inputs with
  | nil =>
    obtain rfl := Host.Outcome.next.inj ((step_idle hin).symm.trans h)
    exact absurd inErr (ne_true_of_eq_false left)
  | cons input rest =>
    rw [step_input hin] at h
    cases input with
    | command cmd =>
      have isReset := decode_of_leaves_error (by exact inErr) h left
      obtain rfl := execSoftReset_next ((carryOut_of_decode isReset).symm.trans h)
      exact ⟨.inr (.inr ⟨cmd, rest, rfl, isReset⟩), rfl, rfl, rfl⟩
    | hardReset =>
      obtain rfl := Host.Outcome.next.inj h
      exact ⟨.inl ⟨rest, rfl⟩, rfl, rfl, rfl⟩
    | resetDuring cmd =>
      obtain rfl := Host.Outcome.next.inj h
      exact ⟨.inr (.inl ⟨cmd, rest, rfl⟩), rfl, rfl, rfl⟩

/-! ### Runs of command words, illegal ones included (rules R164, R175) -/

theorem carryOut_inputs (h : carryOut cmd s = .next t) : t.inputs = s.inputs := by
  unfold carryOut at h
  split at h
  · exact exec_inputs h
  · rcases filtered_next h with ⟨-, rfl⟩ | ⟨-, h⟩
    · rfl
    · rw [← Host.Outcome.next.inj h]
      rfl

/-- The run that answers carried out its first word, then ran the others. -/
theorem runInputs_words_cons {u : State} (hin : s.inputs = (cmd :: words).map .command)
    (h : runInputs s = .next u) :
    ∃ t, carryOut cmd { s with inputs := words.map .command } = .next t ∧ t.inputs = words.map .command ∧
      runInputs t = .next u := by
  have length : s.inputs.length = (words.map Input.command).length + 1 := congrArg List.length hin
  rw [runInputs, length] at h
  obtain ⟨t, ht, hrun⟩ : ∃ t : State, step s = .next t ∧ Sys2Proof.core.run _ t = .next u := run_succ_next h
  have hcarry := (step_input hin).symm.trans ht
  have hinputs := carryOut_inputs hcarry
  exact ⟨t, hcarry, hinputs, by rw [runInputs, hinputs]; exact hrun⟩

/-- In the error state a run of words only receives responses, one for each word. -/
theorem runInputs_words_of_error (inErr : s.err = true) (hin : s.inputs = words.map .command)
    (noReset : ∀ cmd ∈ words, decode cmd ≠ .ok .softReset) (h : runInputs s = .next t) :
    s.SameBlock t ∧ ∃ added, added.length = words.length ∧ t.responses = s.responses ++ added := by
  induction words generalizing s with
  | nil =>
    obtain rfl := Host.Outcome.next.inj ((runInputs_nil hin).symm.trans h)
    exact ⟨rfl, [], rfl, (List.append_nil _).symm⟩
  | cons cmd words ih =>
    obtain ⟨notReset, noReset⟩ := List.forall_mem_cons.mp noReset
    obtain ⟨u, hu, hinputs, hrun⟩ := runInputs_words_cons hin h
    obtain ⟨code, data, rfl⟩ := carryOut_of_error (by exact inErr) notReset hu
    obtain ⟨same, added, length, responses⟩ := ih (by exact inErr) hinputs noReset hrun
    exact ⟨same, ⟨code, data⟩ :: added, congrArg (· + 1) length, by simpa using responses⟩

/-- Settles O29: a run in the error state only receives responses. -/
theorem errorStateKeepsTheFirstFault : Obligations.ErrorStateKeepsTheFirstFault := by
  intro words s t inErr hin noReset h
  obtain ⟨same, added, length, responses⟩ := runInputs_words_of_error inErr hin noReset h
  exact ⟨same, by rw [responses, List.length_append, length]⟩

theorem State.SameBlock.err_eq (h : s.SameBlock t) : t.err = s.err := by
  rw [← h]

/-- A run of words answers `OK` until the first fault, whose response is not `OK` and whose error state stays. -/
theorem runInputs_words_usable (noErr : s.err = false) (hin : s.inputs = words.map .command)
    (noReset : ∀ cmd ∈ words, decode cmd ≠ .ok .softReset) (h : runInputs s = .next t) :
    ∃ added, t.responses = s.responses ++ added ∧ (t.Usable ↔ ∀ r ∈ added, r.code = 0) := by
  induction words generalizing s with
  | nil =>
    obtain rfl := Host.Outcome.next.inj ((runInputs_nil hin).symm.trans h)
    exact ⟨[], (List.append_nil _).symm, by simpa [State.Usable] using noErr⟩
  | cons cmd words ih =>
    obtain ⟨-, noReset⟩ := List.forall_mem_cons.mp noReset
    obtain ⟨u, hu, hinputs, hrun⟩ := runInputs_words_cons hin h
    rcases carryOut_faulted_or_ok (by exact noErr) hu with ⟨c, rfl⟩ | ⟨usable, data, answered⟩
    · obtain ⟨same, added, -, responses⟩ := runInputs_words_of_error rfl hinputs noReset hrun
      have notUsable : ¬ t.Usable := ne_false_of_eq_true same.err_eq
      have notOk : ¬ ∀ r ∈ ⟨c.value, 0⟩ :: added, r.code = 0 := fun ok => c.value_ne_zero (ok _ List.mem_cons_self)
      exact ⟨_, by simpa using responses, iff_of_false notUsable notOk⟩
    · obtain ⟨added, responses, usable_iff⟩ := ih usable hinputs noReset hrun
      refine ⟨⟨0, data⟩ :: added, by simpa [answered] using responses, ?_⟩
      simpa using usable_iff

/-- Settles O30: the responses of the run are the ones past those received before. -/
theorem usableExactlyWhenEveryResponseIsOk : Obligations.UsableExactlyWhenEveryResponseIsOk := by
  intro words s t noErr hin noReset h
  obtain ⟨added, responses, usable_iff⟩ := runInputs_words_usable noErr hin noReset h
  rwa [responses, List.drop_left]

end Sys2Proof.Machine
end

section
/-! PROOFS. The reset input, between commands and during one (ResetInputResetsTheBlock,
ResetDuringCommandLeavesResetBlock), and what closes an open engine (EnginesCloseOnlyAtTheirEnd). -/

namespace Sys2Proof.Machine

variable {s t : State} {i : Instr} {cmd : Word} {rest : List Input}

/-! ### The reset input between commands (rules R190, R191) -/

theorem step_hardReset (hin : s.inputs = .hardReset :: rest) : step s = .next { s.applyReset with inputs := rest } :=
  step_input hin

/-- Settles O8: both resets leave the block of `applyReset`; SOFT_RESET adds its response. -/
theorem resetInputResetsTheBlock : Obligations.ResetInputResetsTheBlock :=
  fun s _ hin => ⟨step_hardReset hin, _, _, step_hardReset hin, exec_softReset s, rfl⟩

/-! ### The reset input during a command (rule R193) -/

theorem step_resetDuring (hin : s.inputs = .resetDuring cmd :: rest) :
    step s = .next (interruptedByReset cmd { s with inputs := rest }) :=
  step_input hin

/-- A word that is carried out adds its one response, and one that stops the model adds none. -/
theorem responsesAfter_cases (cmd : Word) (s : State) :
    responsesAfter cmd s = s.responses ∨
      ∃ u r, carryOut cmd s = .next u ∧ u.responses = s.responses ++ [r] ∧ responsesAfter cmd s = u.responses := by
  unfold responsesAfter
  split
  · next u hu =>
    obtain ⟨r, added, -⟩ := everyCommandAnswersOnce cmd s u hu
    exact .inr ⟨u, r, hu, added, rfl⟩
  · exact .inl rfl
  · exact .inl rfl

/-- Whichever the free value is, the host holds the responses of before or those after the word. -/
theorem interruptedByReset_responses (cmd : Word) (s : State) :
    (interruptedByReset cmd s).responses = s.responses ∨
      (interruptedByReset cmd s).responses = responsesAfter cmd s := by
  unfold interruptedByReset
  split
  · exact .inr rfl
  · exact .inl rfl

/-- Settles O9: the block is the reset state's whatever the word did, and a response that arrives is the one the word
adds. -/
theorem resetDuringCommandLeavesResetBlock : Obligations.ResetDuringCommandLeavesResetBlock := by
  intro s cmd rest hin
  refine ⟨_, step_resetDuring hin, rfl, rfl, ?_⟩
  rcases interruptedByReset_responses cmd { s with inputs := rest } with lost | arrived
  · exact .inl lost
  · rw [arrived]
    exact responsesAfter_cases cmd { s with inputs := rest }

/-! ### What closes an open engine (rule R198) -/

theorem Effect.encEnd_of_pass_closed (h : Effect s i t) (notReset : i ≠ .softReset) (inPass : s.encActive = true)
    (closed : t.encActive = false) : i = .encEnd := by
  cases h with
  | passFlushed => rfl
  | passEnded => rfl
  | blockReset => exact absurd rfl notReset
  | passBegun => cases closed
  | _ => exact absurd inPass (ne_true_of_eq_false closed)

/-- The cursor leaves the decode open unless the pixel is the last (rule R122). -/
theorem last_pixel_of_advanceCursor_closed {len : RunLength} (inDecode : s.decActive = true)
    (closed : (s.advanceCursor len).decActive = false) : s.decEmitted + 1 = s.decTotal := by
  by_contra more
  rw [State.advanceCursor_decActive, if_neg more, inDecode] at closed
  cases closed

theorem Effect.last_pixel_of_decode_closed (h : Effect s i t) (notReset : i ≠ .softReset)
    (inDecode : s.decActive = true) (closed : t.decActive = false) : i = .decPixel ∧ t.decEmitted = s.decTotal ∧ t.decDone = true := by
  cases h with
  | pixelEmitted c =>
    have last := last_pixel_of_advanceCursor_closed (len := c.run) inDecode closed
    exact ⟨rfl, last, if_pos last⟩
  | decodeBegun _ _ noDecode => exact absurd inDecode (ne_true_of_eq_false noDecode)
  | blockReset => exact absurd rfl notReset
  | _ => exact absurd inDecode (ne_true_of_eq_false closed)

/-- Settles O34: of the effects other than reset, only the ends of a pass close it, and only the last pixel a decode. -/
theorem enginesCloseOnlyAtTheirEnd : Obligations.EnginesCloseOnlyAtTheirEnd :=
  fun _ _ _ h notReset =>
    ⟨(exec_effect h).encEnd_of_pass_closed notReset, (exec_effect h).last_pixel_of_decode_closed notReset⟩

end Sys2Proof.Machine
end
